-- ==== Sys2Proof/Word.lean ====
section
/-! DEFINITION. The words of the block: the byte (00_scope.md R14) and the 11-bit command word (30_encoding.md R75). -/

namespace Sys2Proof

/-- A byte of the stream: "an unsigned integer 0..255" (R14). Atomic for the block (20_memory.md R53). -/
abbrev Byte := BitVec 8

/-- A packet, or the payload being accumulated: bytes in arrival order (R15, R52). -/
abbrev Packet := List Byte

/-- The 11-bit command word formed from the input pins (R75). -/
abbrev CmdWord := BitVec 11

end Sys2Proof
end

