-- ==== Sys2Proof/Syntax.lean ====
section
/-! DEFINITION. The instructions: one constructor per row of spec/opcode_table.json. The five commands of format CMD
(30_encoding.md R76) and the eight transitions of format TRANS (R79), whose operand is the byte of the `P` or `PT` command
that carries them (40_process.md R102 to R109, "Encoding"). -/

namespace Sys2Proof

inductive Instr where
  /-- `RST`, reset (42_system.md R150). -/
  | rst
  /-- `NOP`, nothing (41_take.md R132). -/
  | nop
  /-- `P b`, `process(b)` (40_process.md R100). -/
  | p (b : Byte)
  /-- `T`, `takePacket()` (41_take.md R130). -/
  | t
  /-- `PT b`, `takePacket()` then `process(b)` (41_take.md R133). -/
  | pt (b : Byte)
  /-- T1, start of frame (R102). -/
  | t1 (b : Byte)
  /-- T2, hunt (R103). -/
  | t2 (b : Byte)
  /-- T3, accumulate (R104). -/
  | t3 (b : Byte)
  /-- T4, payload complete (R105). -/
  | t4 (b : Byte)
  /-- T5, END found (R106). -/
  | t5 (b : Byte)
  /-- T6, END rejection (R107). -/
  | t6 (b : Byte)
  /-- T7a, frame accepted (R108). -/
  | t7a (b : Byte)
  /-- T7b, checksum rejection (R109). -/
  | t7b (b : Byte)
  deriving DecidableEq, Repr

end Sys2Proof
end

