-- ==== Sys2Proof/Decode.lean ====
section
/-! DEFINITION. Decoding and encoding (30_encoding.md R75 to R79, spec/opcode_table.json). Format CMD is the 11-bit command word
of R75. Format TRANS has two bits in the table, the state code `st[1:0]`; the transition word around them is the model's own
(assumption 7). -/

namespace Sys2Proof

/-- The two formats of spec/opcode_table.json. -/
inductive Format where
  /-- The command word (R75, R76). -/
  | cmd
  /-- A row of the transition table (R79). -/
  | trans
  deriving DecidableEq, Repr

/-- The eight rows of the transition table (R79). -/
inductive Row where
  | T1 | T2 | T3 | T4 | T5 | T6 | T7a | T7b
  deriving DecidableEq, Repr

/-- The instruction that performs row `r` for the byte `b`. -/
def Row.instr (r : Row) (b : Byte) : Instr :=
  match r with
  | .T1 => .t1 b
  | .T2 => .t2 b
  | .T3 => .t3 b
  | .T4 => .t4 b
  | .T5 => .t5 b
  | .T6 => .t6 b
  | .T7a => .t7a b
  | .T7b => .t7b b

/-- The fields of the command word (R75). -/
def CmdWord.rst (w : CmdWord) : Bool := w.getLsbD 10
def CmdWord.pktTake (w : CmdWord) : Bool := w.getLsbD 9
def CmdWord.inValid (w : CmdWord) : Bool := w.getLsbD 8
def CmdWord.inData (w : CmdWord) : Byte := w.extractLsb' 0 8

/-- The command word formed from the pins: `cmd = {rst, pkt_take, in_valid, in_data[7:0]}` (R75). -/
def CmdWord.ofPins (rst pktTake inValid : Bool) (inData : Byte) : CmdWord :=
  (BitVec.ofBool rst ++ BitVec.ofBool pktTake ++ BitVec.ofBool inValid ++ inData : BitVec 11)

/-- Command decode (R76): `RST` first; then `pkt_take` and `in_valid`. Ignored bits are dropped (R77). Every word decodes. -/
def decodeCommand (w : CmdWord) : Instr :=
  if w.rst then .rst
  else
    match w.pktTake, w.inValid with
    | false, false => .nop
    | false, true => .p w.inData
    | true, false => .t
    | true, true => .pt w.inData

/-- The transition selector (R79): the state code, and `eq`, the output of the comparator that the state uses: in
AwaitingStart `b == cfg.START`, in Receiving `len + 1 == cfg.N`, in AwaitingEnd `b == cfg.END`, in AwaitingChecksum
`b == xor_fold(buf)`. -/
def decodeRow (code : BitVec 2) (eq : Bool) : Row :=
  if code = 0b00#2 then (if eq then .T1 else .T2)
  else if code = 0b01#2 then (if eq then .T4 else .T3)
  else if code = 0b10#2 then (if eq then .T5 else .T6)
  else (if eq then .T7a else .T7b)

/-- The fields of the transition word `{eq, b[7:0], st[1:0]}` (assumption 7): the table's two bits lowest. -/
def CmdWord.transSt (w : CmdWord) : BitVec 2 := w.extractLsb' 0 2
def CmdWord.transByte (w : CmdWord) : Byte := w.extractLsb' 2 8
def CmdWord.transEq (w : CmdWord) : Bool := w.getLsbD 10

/-- Decode of a transition word. Every word decodes: all four state codes are used (10_state.md R23). -/
def decodeTransition (w : CmdWord) : Instr := (decodeRow w.transSt w.transEq).instr w.transByte

/-- Why a number is no instruction word. -/
inductive DecodeError where
  /-- It needs more than the eleven bits a word has ("the command is always 11 bits", R82). -/
  | widerThanElevenBits
  deriving DecidableEq, Repr

/-- Decode of any number as a word of format `f`, rejecting by name. -/
def decodeNumber (f : Format) (w : Nat) : Except DecodeError Instr :=
  if w < 2048 then
    match f with
    | .cmd => .ok (decodeCommand (BitVec.ofNat 11 w))
    | .trans => .ok (decodeTransition (BitVec.ofNat 11 w))
  else .error .widerThanElevenBits

/-- The format of a table row of `nbits` bits, in whole bytes: TRANS rows have 2 bits (one byte), CMD rows 11 (two). -/
def formatOfBits (nbits : Nat) : Format := if nbits ≤ 8 then .trans else .cmd

/-- What the decoder reads from a table word (the host's question; assumption 10). -/
def decodeTableWord (nbits w : Nat) : Option Instr := (decodeNumber (formatOfBits nbits) w).toOption

/-- A word with its format. -/
structure Encoded where
  format : Format
  word : CmdWord
  deriving DecidableEq, Repr

/-- Decode of a word of either format. -/
def decode (e : Encoded) : Instr :=
  match e.format with
  | .cmd => decodeCommand e.word
  | .trans => decodeTransition e.word

/-- The transition word of a row (assumption 7). -/
def transWord (eq : Bool) (b : Byte) (code : BitVec 2) : CmdWord := (BitVec.ofBool eq ++ b ++ code : BitVec 11)

/-- The canonical word of an instruction: R76's canonical words with "ignored bits 0" (R77), and R79's rows. -/
def encode (i : Instr) : Encoded :=
  match i with
  | .rst => ⟨.cmd, 0x400#11⟩
  | .nop => ⟨.cmd, 0x000#11⟩
  | .p b => ⟨.cmd, 0x100#11 + b.setWidth 11⟩
  | .t => ⟨.cmd, 0x200#11⟩
  | .pt b => ⟨.cmd, 0x300#11 + b.setWidth 11⟩
  | .t1 b => ⟨.trans, transWord true b 0b00#2⟩
  | .t2 b => ⟨.trans, transWord false b 0b00#2⟩
  | .t3 b => ⟨.trans, transWord false b 0b01#2⟩
  | .t4 b => ⟨.trans, transWord true b 0b01#2⟩
  | .t5 b => ⟨.trans, transWord true b 0b10#2⟩
  | .t6 b => ⟨.trans, transWord false b 0b10#2⟩
  | .t7a b => ⟨.trans, transWord true b 0b11#2⟩
  | .t7b b => ⟨.trans, transWord false b 0b11#2⟩

/-- The table's mask of an instruction's row ("mask" of spec/opcode_table.json; R76, R79). -/
def tableMask (i : Instr) : CmdWord :=
  match i with
  | .rst => 0x400#11
  | .nop => 0x700#11
  | .p _ => 0x700#11
  | .t => 0x700#11
  | .pt _ => 0x700#11
  | .t1 _ => 0x003#11
  | .t2 _ => 0x003#11
  | .t3 _ => 0x003#11
  | .t4 _ => 0x003#11
  | .t5 _ => 0x003#11
  | .t6 _ => 0x003#11
  | .t7a _ => 0x003#11
  | .t7b _ => 0x003#11

/-- The table's match of an instruction's row ("match" of spec/opcode_table.json; R76, R79). -/
def tableMatch (i : Instr) : CmdWord :=
  match i with
  | .rst => 0x400#11
  | .nop => 0x000#11
  | .p _ => 0x100#11
  | .t => 0x200#11
  | .pt _ => 0x300#11
  | .t1 _ => 0x000#11
  | .t2 _ => 0x000#11
  | .t3 _ => 0x001#11
  | .t4 _ => 0x001#11
  | .t5 _ => 0x002#11
  | .t6 _ => 0x002#11
  | .t7a _ => 0x003#11
  | .t7b _ => 0x003#11

/-- Is `i` one of the five commands (R2, R76)? -/
def Instr.isCommand (i : Instr) : Bool :=
  match i with
  | .rst => true
  | .nop => true
  | .p _ => true
  | .t => true
  | .pt _ => true
  | .t1 _ => false
  | .t2 _ => false
  | .t3 _ => false
  | .t4 _ => false
  | .t5 _ => false
  | .t6 _ => false
  | .t7a _ => false
  | .t7b _ => false

/-- The stream byte an instruction consumes, if it carries one (R78, R100). -/
def Instr.byte (i : Instr) : Option Byte :=
  match i with
  | .rst => none
  | .nop => none
  | .p b => some b
  | .t => none
  | .pt b => some b
  | .t1 b => some b
  | .t2 b => some b
  | .t3 b => some b
  | .t4 b => some b
  | .t5 b => some b
  | .t6 b => some b
  | .t7a b => some b
  | .t7b b => some b

end Sys2Proof
end

