-- ==== Sys2Proof/Config.lean ====
section
/-! DEFINITION. The construction-time parameters of the block (00_scope.md R8, R9) and its one free value
(93_implementation_defined.md U1). -/

namespace Sys2Proof

/-- The configuration `cfg = (START, END, N)`, fixed at construction (R8, R20). Any START and END, equal or not, and any
natural `N >= 1` (R9). `CONFIG` with N = 0 is refused (42_system.md R151), so no `Config` holds it. -/
structure Config where
  /-- `cfg.START`, "single configured byte value marking frame start". -/
  start : Byte
  /-- `cfg.END`, "single configured byte value marking frame end". -/
  stop : Byte
  /-- `cfg.N`, "fixed number of payload bytes per frame". -/
  n : Nat
  /-- "N ≥ 1" (R8, R151). -/
  n_pos : 1 ≤ n
  deriving DecidableEq, Repr

/-- `cfg_default`, the reference deployment: START = 0xFF, END = 0xEE, N = 160 (R8, R74). -/
def Config.reference : Config := { start := 0xFF#8, stop := 0xEE#8, n := 160, n_pos := by decide }

/-- FREE VALUE (assumption 4): what the port `pkt_data` of a block with N = `n` shows in step number `draw` while
`pkt_valid = 0`. "any value: ... a port-level model draws an arbitrary 8N-bit value each cycle and no claim may depend
on it" (U1, 10_state.md R29). It has no body: nothing in the model knows it. -/
opaque Config.idlePktData (n : Nat) (draw : Nat) : BitVec (8 * n)

end Sys2Proof
end

