-- ==== Sys2Proof/Machine/Raw.lean ====
section
/-! DEFINITION. The raw contents of one FrameSynchronizer instance (10_state.md), as plain data, and the invariant INV of R32.
`State` (Machine/State.lean) is these contents with the proof that INV holds: "raw triple plus proof" (R32). -/

namespace Sys2Proof.Machine

/-- The four values of the sequencer state `st` (10_state.md R22). -/
inductive SeqState where
  | awaitingStart
  | receiving
  | awaitingEnd
  | awaitingChecksum
  deriving DecidableEq, Repr

/-- The five events a step can raise (00_scope.md R16, R17; 60_exceptions.md R180). -/
inductive Event where
  | sof
  | accept
  | rejEnd
  | rejCsum
  | drop
  deriving DecidableEq, Repr

/-- The output record `Out` of a step (00_scope.md R17). -/
structure Out where
  taken : Option Packet
  sof : Bool
  accept : Bool
  rejEnd : Bool
  rejCsum : Bool
  drop : Bool
  deriving DecidableEq, Repr

/-- The output of a step that takes nothing and raises no event (R17). -/
def Out.quiet : Out := { taken := none, sof := false, accept := false, rejEnd := false, rejCsum := false, drop := false }

/-- The raw contents. `st`, `buf` and `slot` are the block's whole architectural state (10_state.md R21). `cfg` holds the
construction constants, which no step writes (R20; assumption 1). `out` is the output record of the most recent step (00_scope.md
R17, 70_reset_and_hazards.md R224; assumption 3). `input` and `draws` are the model's own: the host's command words not yet
presented, oldest first (20_memory.md R58; assumption 2), and the number of steps made, which only indexes the free value of
`pkt_data` (93_implementation_defined.md U1; assumption 4). The assignments of one step pass through raw contents that need not
meet INV; only contents that meet it are a state. -/
structure Raw where
  cfg : Config
  st : SeqState
  buf : Packet
  slot : Option Packet
  out : Out
  input : List CmdWord
  draws : Nat
  deriving DecidableEq, Repr

/-- `len = |buf|`, a derived value (10_state.md R25). -/
def Raw.len (s : Raw) : Nat := s.buf.length

/-- The part of INV about `st` and `len` (10_state.md R32). -/
def Raw.lenLegal (s : Raw) : Bool :=
  match s.st with
  | .awaitingStart => s.len == 0
  | .receiving => decide (s.len + 1 ≤ s.cfg.n)
  | .awaitingEnd => s.len == s.cfg.n
  | .awaitingChecksum => s.len == s.cfg.n

/-- The part of INV about `slot`: "slot = none or |slot| = N" (R28, R32). -/
def Raw.slotLegal (s : Raw) : Bool :=
  match s.slot with
  | none => true
  | some p => p.length == s.cfg.n

/-- INV (R32). "A triple (st, buf, slot) that violates INV is not a state of the machine." -/
def Raw.inv (s : Raw) : Bool := s.lenLegal && s.slotLegal

/-- INV as a proposition. -/
abbrev Raw.Inv (s : Raw) : Prop := s.inv = true

end Sys2Proof.Machine
end

