-- ==== Sys2Proof/Machine/State.lean ====
section
/-! DEFINITION. The state of the machine: raw contents with the proof of INV (10_state.md R32), and the state after reset. -/

namespace Sys2Proof.Machine

/-- A state of the machine: contents that meet INV. "the model's state type should carry `INV` (raw triple plus proof)" (R32). A
triple that violates INV cannot be written down as a `State` (30_encoding.md R87, 93_implementation_defined.md U3). -/
structure State extends Raw where
  legal : toRaw.Inv
  deriving DecidableEq, Repr

/-- The block has no fault: "no command in any reachable state is without a meaning" (60_exceptions.md R196). -/
inductive Fault where
  deriving DecidableEq, Repr

/-- Why a step or a construction is refused. -/
inductive Refusal where
  /-- An instruction without a meaning yet; no arm of `exec` raises it. Safe. -/
  | notModelled (mnemonic : String)
  /-- Contents that violate INV of 10_state.md R32, which are no state: "The spec gives them no behaviour; a model refuses them by
  making them unrepresentable" (30_encoding.md R87). Raised by `State.ofRaw`; no instruction raises it, since every effect keeps
  INV (the statement `RefusedExactlyOutsideInvariant`). Safe (assumption 5). -/
  | outsideInvariant
  /-- A transition row taken on its own where the selector of 30_encoding.md R79 does not select it. Raised by T1 to T7b, never
  by a command word. Safe (assumption 6). -/
  | rowNotSelected
  /-- `CONFIG` with N = 0 (42_system.md R151). Raised by `construct`. Safe: "no instance exists". -/
  | zeroPayloadLength
  deriving DecidableEq, Repr

/-- The reset state of an instance constructed with `cfg` (10_state.md R37, 70_reset_and_hazards.md R210). -/
def State.resetOf (cfg : Config) : State :=
  { cfg := cfg, st := .awaitingStart, buf := [], slot := none, out := Out.quiet, input := [], draws := 0, legal := rfl }

/-- The machine right after reset, in the reference deployment (R8, R37; assumptions 1, 2, 4, 8). -/
def State.reset : State := State.resetOf Config.reference

end Sys2Proof.Machine
end

