-- ==== Sys2Proof/Machine/Ops.lean ====
section
/-! DEFINITION. The named operations. Those on raw contents are the assignments of the pseudocode; all writes of one step take effect
together (00_scope.md R16), when `State.ofRaw` makes what they leave a state. There is no memory and no register file (10_state.md
R36), so the storage operations are those of `buf` and `slot`. What an ISA calls taking
an exception is here a rejection: an ordinary transition that raises an event and resynchronizes (60_exceptions.md R185);
nothing is saved, so there is no return (R186). -/

namespace Sys2Proof.Machine

/-- Start a step's output afresh: "each step computes them afresh" (00_scope.md R17). -/
def Raw.fresh (s : Raw) : Raw := { s with out := Out.quiet }

/-- `st <- v` (00_scope.md R16). -/
def Raw.setSt (s : Raw) (v : SeqState) : Raw := { s with st := v }

/-- `buf <- []`: "clear buffer" (10_state.md R27). -/
def Raw.clearBuf (s : Raw) : Raw := { s with buf := [] }

/-- `buf <- buf ++ [b]`: "append byte to buffer" (R27). -/
def Raw.append (s : Raw) (b : Byte) : Raw := { s with buf := s.buf ++ [b] }

/-- `slot <- some(buf)`: "store a copy of the payload in the packet slot" (R30). -/
def Raw.storePacket (s : Raw) : Raw := { s with slot := some s.buf }

/-- `slot <- none` (R30). -/
def Raw.clearSlot (s : Raw) : Raw := { s with slot := none }

/-- The output record with event `e` raised too. -/
def Out.raise (o : Out) (e : Event) : Out :=
  match e with
  | .sof => { o with sof := true }
  | .accept => { o with accept := true }
  | .rejEnd => { o with rejEnd := true }
  | .rejCsum => { o with rejCsum := true }
  | .drop => { o with drop := true }

/-- `raise E()`: sets event flag E; does not abort the step (00_scope.md R16). -/
def Raw.raise (s : Raw) (e : Event) : Raw := { s with out := s.out.raise e }

/-- `raise Drop()` exactly when the slot is full (60_exceptions.md R183). -/
def Raw.raiseDropIfFull (s : Raw) : Raw := if s.slot.isSome then s.raise .drop else s

/-- Resynchronize: "discard current partial-frame state and return to scanning for a new START marker" (GLOSSARY; R185). Shared
by T6, T7a, T7b and RST. -/
def Raw.resync (s : Raw) : Raw := s.clearBuf.setSt .awaitingStart

/-- A frame rejection, signalled by event `e` (60_exceptions.md R181, R182, R185): resynchronize and raise. The one shared
operation where an ISA would take an exception. -/
def Raw.rejectFrame (s : Raw) (e : Event) : Raw := s.resync.raise e

/-- `takePacket()`: `taken <- slot`, `slot <- none`, one indivisible read-and-clear (41_take.md R130, 20_memory.md R61). -/
def Raw.take (s : Raw) : Raw := { s with out := { s.out with taken := s.slot }, slot := none }

/-- The contents `r` as a state: a state when they meet INV, refused otherwise (10_state.md R32, 30_encoding.md R87;
assumption 5). Every meaning ends here: its writes take effect together (00_scope.md R16), and what they leave is a state. -/
def State.ofRaw (r : Raw) : Host.Outcome State Fault Refusal :=
  if h : r.Inv then .next { r with legal := h } else .refused .outsideInvariant

/-- The command word of this cycle and the state with it consumed: the head of the host's stream (20_memory.md R58), or, when the
host presents nothing, the word 0x000 of a cycle with "neither a byte nor a take" (41_take.md R132; assumption 2). -/
def State.fetch (s : State) : CmdWord × State :=
  match s.input with
  | [] => (0x000#11, { s with draws := s.draws + 1, legal := s.legal })
  | w :: ws => (w, { s with input := ws, draws := s.draws + 1, legal := s.legal })

/-- Present the word `w` next, before what the host has pending. -/
def State.present (s : State) (w : CmdWord) : State := { s with input := w :: s.input, legal := s.legal }

end Sys2Proof.Machine
end

