-- ==== Sys2Proof/Machine/Operands.lean ====
section
/-! DEFINITION. What a transition reads: the checksum function, the four comparators and the selector of 30_encoding.md R79;
and the performing of one row of the table. -/

namespace Sys2Proof.Machine

/-- `xor_fold(s)`: 0x00 for the empty sequence, `xor_fold(s ++ [b]) = xor_fold(s) xor b` (40_process.md R101). -/
def xorFold (p : Packet) : Byte := p.foldl (fun acc b => acc ^^^ b) 0x00#8

/-- `FLEN = cfg.N + 3`, the frame length on the wire (00_scope.md R10). -/
def frameLength (cfg : Config) : Nat := cfg.n + 3

/-- The 2-bit code of `st` (10_state.md R23). -/
def SeqState.code (v : SeqState) : BitVec 2 :=
  match v with
  | .awaitingStart => 0b00#2
  | .receiving => 0b01#2
  | .awaitingEnd => 0b10#2
  | .awaitingChecksum => 0b11#2

/-- The START marker detector, the length comparator, the END marker detector and the checksum comparator, as `st` selects one
(30_encoding.md R78, R79). -/
def Raw.comparator (s : Raw) (b : Byte) : Bool :=
  match s.st with
  | .awaitingStart => b == s.cfg.start
  | .receiving => s.len + 1 == s.cfg.n
  | .awaitingEnd => b == s.cfg.stop
  | .awaitingChecksum => b == xorFold s.buf

/-- The transition that `process(b)` selects by the pair (`st`, predicate) (R79). -/
def Raw.select (s : Raw) (b : Byte) : Row := decodeRow s.st.code (s.comparator b)

/-- Perform row `r` for the byte `b`: its effect where the selector of R79 selects it, else refused (assumption 6). The
output record starts afresh (R17). -/
def State.performRow (s : State) (r : Row) (b : Byte) (effect : Raw → Raw) : Host.Outcome State Fault Refusal :=
  if s.select b = r then State.ofRaw (effect s.fresh) else .refused .rowNotSelected

end Sys2Proof.Machine
end

