-- ==== Sys2Proof/Machine/Process.lean ====
section
/-! DEFINITION. The PROCESS family (40_process.md): the effects of the eight transitions, their meanings as rows of the
table, and the command `P b`. -/

namespace Sys2Proof.Machine

/-- T1 (R102): `buf <- []; st <- Receiving; raise Sof()`. -/
def Raw.startOfFrame (s : Raw) : Raw := (s.clearBuf.setSt .receiving).raise .sof

/-- T2 (R103): "no state change; the byte is discarded". -/
def Raw.hunt (s : Raw) : Raw := s

/-- T3 (R104): `buf <- buf ++ [b]; st <- Receiving`. -/
def Raw.accumulate (s : Raw) (b : Byte) : Raw := (s.append b).setSt .receiving

/-- T4 (R105): `buf <- buf ++ [b]; st <- AwaitingEnd`. -/
def Raw.completePayload (s : Raw) (b : Byte) : Raw := (s.append b).setSt .awaitingEnd

/-- T5 (R106): `st <- AwaitingChecksum`, "no buffer mutation". -/
def Raw.endFound (s : Raw) : Raw := s.setSt .awaitingChecksum

/-- T6 (R107): `buf <- []; st <- AwaitingStart; raise RejEnd()`. The slot is not written. -/
def Raw.rejectEnd (s : Raw) : Raw := s.rejectFrame .rejEnd

/-- T7a (R108): `Drop` if the slot is full, `slot <- some(buf); buf <- []; st <- AwaitingStart; raise Accept()`. -/
def Raw.acceptFrame (s : Raw) : Raw := s.raiseDropIfFull.storePacket.resync.raise .accept

/-- T7b (R109): `Drop` if the slot is full, `slot <- none; buf <- []; st <- AwaitingStart; raise RejCsum()`. -/
def Raw.rejectChecksum (s : Raw) : Raw := s.raiseDropIfFull.clearSlot.rejectFrame .rejCsum

/-- The effect of the row `r` for the byte `b`. -/
def Raw.applyRow (s : Raw) (r : Row) (b : Byte) : Raw :=
  match r with
  | .T1 => s.startOfFrame
  | .T2 => s.hunt
  | .T3 => s.accumulate b
  | .T4 => s.completePayload b
  | .T5 => s.endFound
  | .T6 => s.rejectEnd
  | .T7a => s.acceptFrame
  | .T7b => s.rejectChecksum

/-- `process(b)` (R100): exactly one transition, the one R79 selects. -/
def Raw.process (s : Raw) (b : Byte) : Raw := s.applyRow (s.select b) b

/-- T1 as a row of the transition table (R102). -/
def execT1 (b : Byte) (s : State) : Host.Outcome State Fault Refusal := s.performRow .T1 b Raw.startOfFrame

/-- T2 as a row of the transition table (R103). -/
def execT2 (b : Byte) (s : State) : Host.Outcome State Fault Refusal := s.performRow .T2 b Raw.hunt

/-- T3 as a row of the transition table (R104). -/
def execT3 (b : Byte) (s : State) : Host.Outcome State Fault Refusal := s.performRow .T3 b (fun r => r.accumulate b)

/-- T4 as a row of the transition table (R105). -/
def execT4 (b : Byte) (s : State) : Host.Outcome State Fault Refusal := s.performRow .T4 b (fun r => r.completePayload b)

/-- T5 as a row of the transition table (R106). -/
def execT5 (b : Byte) (s : State) : Host.Outcome State Fault Refusal := s.performRow .T5 b Raw.endFound

/-- T6 as a row of the transition table (R107). -/
def execT6 (b : Byte) (s : State) : Host.Outcome State Fault Refusal := s.performRow .T6 b Raw.rejectEnd

/-- T7a as a row of the transition table (R108). -/
def execT7a (b : Byte) (s : State) : Host.Outcome State Fault Refusal := s.performRow .T7a b Raw.acceptFrame

/-- T7b as a row of the transition table (R109). -/
def execT7b (b : Byte) (s : State) : Host.Outcome State Fault Refusal := s.performRow .T7b b Raw.rejectChecksum

/-- `P b` (R100): `process(b)`, with `taken = none`. -/
def execP (b : Byte) (s : State) : Host.Outcome State Fault Refusal := State.ofRaw (s.fresh.process b)

end Sys2Proof.Machine
end

