-- ==== Sys2Proof/WellFormed.lean ====
section
/-! DEFINITION. Which instructions can occur under a configuration. No command is ill-formed (30_encoding.md R77, R80); a
transition is well-formed when the part of its predicate that only reads the byte and `cfg` holds (R79; assumption 18). -/

namespace Sys2Proof

/-- `i` can occur under `cfg`. T1 and T2 compare the byte with START, T5 and T6 with END (R78, R79); T3 is "never selected when
`cfg.N = 1`" (R104); T4, T7a and T7b take any byte (R105, R108, R109: their predicates read the buffer). -/
def Instr.wellFormed (cfg : Config) (i : Instr) : Bool :=
  match i with
  | .rst => true
  | .nop => true
  | .p _ => true
  | .t => true
  | .pt _ => true
  | .t1 b => b == cfg.start
  | .t2 b => b != cfg.start
  | .t3 _ => decide (2 ≤ cfg.n)
  | .t4 _ => true
  | .t5 b => b == cfg.stop
  | .t6 b => b != cfg.stop
  | .t7a _ => true
  | .t7b _ => true

/-- The same as a proposition. -/
abbrev Instr.WellFormed (cfg : Config) (i : Instr) : Prop := i.wellFormed cfg = true

/-- What `CONFIG(START, END, N)` checks: "It is legal exactly when START and END are bytes and N is a natural number with
N >= 1" (42_system.md R151). -/
def Config.legalPayloadLength (n : Nat) : Bool := decide (1 ≤ n)

end Sys2Proof
end

