-- ==== Sys2Proof/Machine/System.lean ====
section
/-! DEFINITION. The system operations (42_system.md): `RST` and the construction `CONFIG`. -/

namespace Sys2Proof.Machine

/-- `RST` (R150): `st <- AwaitingStart; buf <- []; slot <- none; taken <- none`, no event, from any state whatever. The
configuration is not affected. What it leaves meets INV whatever was there. -/
def execRst (s : State) : Host.Outcome State Fault Refusal :=
  .next { s.fresh.resync.clearSlot with legal := rfl }

/-- `CONFIG(START, END, N)` (R151): refused exactly when N = 0; else the instance, at the state of its first `RST` (assumption
8: before it the state is unspecified, 70_reset_and_hazards.md R213). It has no command word. -/
def construct (start stop : Byte) (n : Nat) : Host.Outcome State Fault Refusal :=
  if h : Config.legalPayloadLength n = true then
    .next (State.resetOf { start := start, stop := stop, n := n, n_pos := of_decide_eq_true h })
  else .refused .zeroPayloadLength

end Sys2Proof.Machine
end

