-- ==== Sys2Proof/Machine/Take.lean ====
section
/-! DEFINITION. The consumer side (41_take.md): `T`, `NOP` and `PT b`. -/

namespace Sys2Proof.Machine

/-- `T` (R130): `takePacket()`. `st` and `buf` are not written; a take from an empty slot returns none. -/
def execT (s : State) : Host.Outcome State Fault Refusal := State.ofRaw s.fresh.take

/-- `NOP` (R132): no state is written, no event, `taken = none`. -/
def execNop (s : State) : Host.Outcome State Fault Refusal := State.ofRaw s.fresh

/-- `PT b` (R133): the take first, on the state at the start of the step; then `process(b)` on the state it leaves. -/
def execPt (b : Byte) (s : State) : Host.Outcome State Fault Refusal := State.ofRaw (s.fresh.take.process b)

end Sys2Proof.Machine
end

