-- ==== Sys2Proof/Machine/Dispatch.lean ====
section
/-! DEFINITION. The meaning of every instruction: one arm per row of spec/opcode_table.json. -/

namespace Sys2Proof.Machine

def exec (i : Instr) (s : State) : Host.Outcome State Fault Refusal :=
  match i with
  | .rst => Sys2Proof.Machine.execRst s
  | .nop => Sys2Proof.Machine.execNop s
  | .p b => Sys2Proof.Machine.execP b s
  | .t => Sys2Proof.Machine.execT s
  | .pt b => Sys2Proof.Machine.execPt b s
  | .t1 b => Sys2Proof.Machine.execT1 b s
  | .t2 b => Sys2Proof.Machine.execT2 b s
  | .t3 b => Sys2Proof.Machine.execT3 b s
  | .t4 b => Sys2Proof.Machine.execT4 b s
  | .t5 b => Sys2Proof.Machine.execT5 b s
  | .t6 b => Sys2Proof.Machine.execT6 b s
  | .t7a b => Sys2Proof.Machine.execT7a b s
  | .t7b b => Sys2Proof.Machine.execT7b b s

end Sys2Proof.Machine
end

