-- ==== Sys2Proof/Machine/Stage.lean ====
section
/-! DEFINITION. Staging one instruction so that the very next step runs it (for `State.withFetchWord`; assumptions 10, 15). -/

namespace Sys2Proof.Machine

/-- `s` with the contents `r` where they are a state, else `s` as it is. -/
def State.place (s : State) (r : Raw) : State := if h : r.Inv then { r with legal := h } else s

/-- Put the sequencer where row `r` is selected for the byte `b` (R79), with zero bytes for the payload received so far, and
present `P b`. The configuration is not touched: where `b` is START, T2 cannot be staged, and so for T1, T5 and T6; T3
needs N >= 2 (R104): with N = 1 it places nothing. -/
def State.stageRow (s : State) (r : Row) (b : Byte) : State :=
  let ready : Raw :=
    match r with
    | .T1 => { s.toRaw with st := .awaitingStart, buf := [] }
    | .T2 => { s.toRaw with st := .awaitingStart, buf := [] }
    | .T3 => { s.toRaw with st := .receiving, buf := [] }
    | .T4 => { s.toRaw with st := .receiving, buf := List.replicate (s.cfg.n - 1) 0#8 }
    | .T5 => { s.toRaw with st := .awaitingEnd, buf := List.replicate s.cfg.n 0#8 }
    | .T6 => { s.toRaw with st := .awaitingEnd, buf := List.replicate s.cfg.n 0#8 }
    | .T7a => { s.toRaw with st := .awaitingChecksum, buf := b :: List.replicate (s.cfg.n - 1) 0#8 }
    | .T7b => { s.toRaw with st := .awaitingChecksum, buf := (b ^^^ 1#8) :: List.replicate (s.cfg.n - 1) 0#8 }
  (s.place ready).present (CmdWord.ofPins false false true b)

/-- Stage the table word `w` of `nbits` bits: a command word is presented as it is; a transition word stages its row. A number
that is no word stages nothing. -/
def State.stageTableWord (s : State) (nbits w : Nat) : State :=
  if w < 2048 then
    match formatOfBits nbits with
    | .cmd => s.present (BitVec.ofNat 11 w)
    | .trans =>
      let v : CmdWord := BitVec.ofNat 11 w
      s.stageRow (decodeRow v.transSt v.transEq) v.transByte
  else s

end Sys2Proof.Machine
end

