-- ==== Sys2Proof/Machine/Step.lean ====
section
/-! DEFINITION. One step of the machine: one command of the host's stream, applied whole (00_scope.md R12, 20_memory.md R58). -/

namespace Sys2Proof.Machine

/-- One step: fetch the command word of this cycle, decode it, execute it. -/
def step (s : State) : Host.Outcome State Fault Refusal :=
  exec (decodeCommand s.fetch.1) s.fetch.2

/-- `s` with the instruction of the table word `w` staged for the very next step (assumptions 2, 10, 15). -/
def State.withFetchWord (s : State) (nbits w : Nat) : State := s.stageTableWord nbits w

end Sys2Proof.Machine
end

