-- ==== Sys2Proof/Machine/Flags.lean ====
section
/-! DEFINITION. The flags and the output ports: the event vector `ev[4:0]` (30_encoding.md R84), the one state flag `pkt_valid`
(10_state.md R34) and the ports of R83. -/

namespace Sys2Proof.Machine

/-- The event vector `ev[4:0]` = drop, rej_csum, rej_end, accept, sof (30_encoding.md R84). -/
def Out.ev (o : Out) : BitVec 5 :=
  (BitVec.ofBool o.drop ++ BitVec.ofBool o.rejCsum ++ BitVec.ofBool o.rejEnd ++ BitVec.ofBool o.accept ++ BitVec.ofBool o.sof :
    BitVec 5)

/-- The port `ev`: the flags of the command most recently applied (R83, 70_reset_and_hazards.md R224). -/
def Raw.evPort (s : Raw) : BitVec 5 := s.out.ev

/-- The port `st[1:0]` (10_state.md R23). -/
def Raw.stPort (s : Raw) : BitVec 2 := s.st.code

/-- `LW = floor(log2(N)) + 1`, the width of the length counter (00_scope.md R10). -/
def lenWidth (cfg : Config) : Nat := Nat.log2 cfg.n + 1

/-- The size of the state in bits: `st`, `len`, the buffer's store, `pkt_valid`, the slot's store (10_state.md R40). -/
def stateBits (cfg : Config) : Nat := 2 + lenWidth cfg + 8 * cfg.n + 1 + 8 * cfg.n

/-- The port `len[LW-1:0]`, unsigned (10_state.md R25). -/
def Raw.lenPort (s : Raw) : BitVec (lenWidth s.cfg) := BitVec.ofNat (lenWidth s.cfg) s.len

/-- The port and state flag `pkt_valid`: 1 exactly when `slot != none` (10_state.md R29). -/
def Raw.pktValid (s : Raw) : Bool := s.slot.isSome

/-- A packet as one number, byte i in bits `[8i+7 : 8i]` (R29, 20_memory.md R52). -/
def packetNumber (p : Packet) : Nat := p.foldr (fun b rest => b.toNat + 256 * rest) 0

/-- The port `pkt_data[8N-1:0]`: the packet while `pkt_valid = 1`, a free value while `pkt_valid = 0` (R29, U1;
assumption 4). -/
def Raw.pktData (s : Raw) : BitVec (8 * s.cfg.n) :=
  match s.slot with
  | some p => BitVec.ofNat (8 * s.cfg.n) (packetNumber p)
  | none => Config.idlePktData s.cfg.n s.draws

end Sys2Proof.Machine
end

