-- ==== Sys2Proof/Machine/Datapath.lean ====
section
/-! DEFINITION. A hardware implementation of the block as the spec sketches it: a length counter and an N-entry store
(10_state.md R25), a running checksum accumulator (R31), the slot's store with its valid bit (R40), and registered behaviour at the
pins (92_eei_decisions.md D6; 41_take.md R134). It is beside the model, not part of State (assumption 12): a statement says that
the model is what one clock of it does. -/

namespace Sys2Proof.Machine

/-- The registers of the implementation. `ev` and `taken` of the last edge are kept in `out` (70_reset_and_hazards.md R224). -/
structure Datapath where
  cfg : Config
  st : SeqState
  count : Nat
  store : List Byte
  acc : Byte
  pktValid : Bool
  pktStore : List Byte
  out : Out
  deriving DecidableEq, Repr

/-- The block's contents that the registers stand for: entries at indices >= `len` are not architectural (R25), nor is the slot's store
while it is empty. -/
def Datapath.abstract (d : Datapath) : Raw :=
  { cfg := d.cfg, st := d.st, buf := d.store.take d.count, slot := if d.pktValid then some d.pktStore else none, out := d.out,
    input := [], draws := 0 }

/-- The invariant of the registers: the stores have N entries, the counter is as INV says, and `acc = xor_fold(buf)` "whenever `st`
is Receiving, AwaitingEnd or AwaitingChecksum" (R31). -/
def Datapath.wf (d : Datapath) : Bool :=
  (d.store.length == d.cfg.n) && (d.pktStore.length == d.cfg.n) &&
    (match d.st with
      | .awaitingStart => d.count == 0
      | .receiving => decide (d.count + 1 ≤ d.cfg.n) && d.acc == xorFold (d.store.take d.count)
      | .awaitingEnd => d.count == d.cfg.n && d.acc == xorFold d.store
      | .awaitingChecksum => d.count == d.cfg.n && d.acc == xorFold d.store)

/-- The output record of one edge: `taken` is what `pkt_valid`/`pkt_data` showed before the edge (30_encoding.md R83), the flags are
those of the byte side; `Drop` when the slot is full and not taken at this very edge (60_exceptions.md R183). -/
def Datapath.edgeOut (d : Datapath) (take valid : Bool) (b : Byte) : Out :=
  let atStart := valid && d.st == .awaitingStart
  let atEnd := valid && d.st == .awaitingEnd
  let atCsum := valid && d.st == .awaitingChecksum
  { taken := if take && d.pktValid then some d.pktStore else none
    sof := atStart && b == d.cfg.start
    accept := atCsum && b == d.acc
    rejEnd := atEnd && b != d.cfg.stop
    rejCsum := atCsum && b != d.acc
    drop := atCsum && d.pktValid && !take }

/-- The byte side's registers after one edge that carries `b`. -/
def Datapath.edgeByte (d : Datapath) (b : Byte) : Datapath :=
  match d.st with
  | .awaitingStart => if b = d.cfg.start then { d with st := .receiving, count := 0, acc := 0#8 } else d
  | .receiving =>
    { d with
      st := if d.count + 1 = d.cfg.n then .awaitingEnd else .receiving
      count := d.count + 1
      store := d.store.set d.count b
      acc := d.acc ^^^ b }
  | .awaitingEnd => if b = d.cfg.stop then { d with st := .awaitingChecksum } else { d with st := .awaitingStart, count := 0 }
  | .awaitingChecksum => { d with st := .awaitingStart, count := 0 }

/-- The next value of the packet slot's registers, "selected among three sources, by the first row that applies" (41_take.md
R134): rows 2 and 3 (T7a, T7b) stand above row 4 (take). -/
def Datapath.edgeSlot (d : Datapath) (take valid : Bool) (b : Byte) : Bool × List Byte :=
  if valid && d.st == .awaitingChecksum then
    if b == d.acc then (true, d.store) else (false, d.pktStore)
  else if take then (false, d.pktStore)
  else (d.pktValid, d.pktStore)

/-- One rising edge with the command word `w` on the pins (30_encoding.md R75; `rst` overrides everything, R187). -/
def Datapath.clock (d : Datapath) (w : CmdWord) : Datapath :=
  if w.rst then
    { d with st := .awaitingStart, count := 0, pktValid := false, out := Out.quiet }
  else
    let bytes := if w.inValid then d.edgeByte w.inData else d
    let slot := d.edgeSlot w.pktTake w.inValid w.inData
    { bytes with pktValid := slot.1, pktStore := slot.2, out := d.edgeOut w.pktTake w.inValid w.inData }

end Sys2Proof.Machine
end

