-- ==== Sys2Proof/Machine/Relay.lean ====
section
/-! DEFINITION. The environment: the reference driver RelayLoop around the block (43_relay_environment.md). It is not part of the
block and `step` does not use it (00_scope.md R5; assumption 13). What ByteSource, the cancellation signal and PacketSink answer are
inputs. -/

namespace Sys2Proof.Machine

/-- What `read_one(timeout)` answers: "byte | none | fatal_error" (R161). -/
inductive ReadResult where
  | byte (b : Byte)
  | timeout
  | fatal
  deriving DecidableEq, Repr

/-- What `publish(bytes)` answers: "ok | error" (R162). -/
inductive PublishResult where
  | ok
  | error
  deriving DecidableEq, Repr

/-- "the policy of continuing vs. aborting the loop is a deployment decision" (R162; 93_implementation_defined.md U11). -/
inductive PublishPolicy where
  | continuing
  | aborting
  deriving DecidableEq, Repr

/-- Why the loop ended (R165), or that it has not. -/
inductive LoopStatus where
  | running
  | cancelled
  | sourceFailed
  | sinkFailed
  deriving DecidableEq, Repr

/-- A connection the loop holds: the environment opened it before the loop (00_scope.md R6, 70_reset_and_hazards.md R213), and the
loop releases it on exit (R165). -/
inductive Connection where
  | held
  | released
  deriving DecidableEq, Repr

/-- The environment's answers in one iteration: is cancellation requested at its top (R166), what does the read answer, what would the
sink answer. -/
structure Iteration where
  cancel : Bool
  read : ReadResult
  publish : PublishResult
  deriving DecidableEq, Repr

/-- An iteration that nothing cancels and whose read is not fatal: the byte obtained, if any, and the sink's answer. -/
def Iteration.undisturbed (read : Option Byte) (publish : PublishResult) : Iteration :=
  { cancel := false
    read := match read with
      | none => .timeout
      | some b => .byte b
    publish := publish }

/-- The loop: the block, the packets PacketSink was given and accepted, those whose publishing failed, which are reported to the
loop's caller, never retried and gone from the block (R170), the copies DiagnosticDecoder was given (R163), the transport and bus
connections it holds (R165), and whether it runs. -/
structure Relay where
  block : State
  published : List Packet
  failed : List Packet
  diagnosed : List Packet
  transport : Connection
  bus : Connection
  status : LoopStatus
  deriving DecidableEq, Repr

/-- Leave the loop: "On exit (any path), the loop performs scoped release of the transport and bus connections, guaranteed even when
exit is triggered by an error" (R165); "loop terminates after cleanup" (R170). The one way out of the loop. -/
def Relay.exit (why : LoopStatus) (r : Relay) : Relay := { r with transport := .released, bus := .released, status := why }

/-- The start of a run: the `RST` that precedes its iterations (R167, R169), with both connections open. -/
def Relay.start (s : State) : Host.Outcome Relay Fault Refusal :=
  match exec .rst s with
  | .next t =>
    .next { block := t, published := [], failed := [], diagnosed := [], transport := .held, bus := .held, status := .running }
  | .fault f => .fault f
  | .refused e => .refused e

/-- Dispatch the packet a take returned, if any: deliver it, and independently give a copy to the decoder, whose result is ignored
(R163, R164). A sink error is fatal to the loop only under the aborting policy (R162, R165). -/
def Relay.dispatch (policy : PublishPolicy) (answer : PublishResult) (r : Relay) : Relay :=
  match r.block.out.taken with
  | none => r
  | some p =>
    match answer, policy with
    | .ok, _ => { r with published := r.published ++ [p], diagnosed := r.diagnosed ++ [p] }
    | .error, .continuing => { r with failed := r.failed ++ [p], diagnosed := r.diagnosed ++ [p] }
    | .error, .aborting => Relay.exit .sinkFailed { r with failed := r.failed ++ [p], diagnosed := r.diagnosed ++ [p] }

/-- The rest of an iteration after its read: `takePacket()`, then dispatch (R164). -/
def Relay.drain (policy : PublishPolicy) (answer : PublishResult) (r : Relay) : Host.Outcome Relay Fault Refusal :=
  match exec .t r.block with
  | .next t => .next (Relay.dispatch policy answer { r with block := t })
  | .fault f => .fault f
  | .refused e => .refused e

/-- One iteration (R164 to R166): cancellation is checked at its top; then one read; a byte is processed; then the take. -/
def Relay.iterate (policy : PublishPolicy) (it : Iteration) (r : Relay) : Host.Outcome Relay Fault Refusal :=
  match r.status with
  | .cancelled => .next r
  | .sourceFailed => .next r
  | .sinkFailed => .next r
  | .running =>
    if it.cancel then .next (r.exit .cancelled)
    else
      match it.read with
      | .fatal => .next (r.exit .sourceFailed)
      | .timeout => r.drain policy it.publish
      | .byte b =>
        match exec (.p b) r.block with
        | .next s => Relay.drain policy it.publish { r with block := s }
        | .fault f => .fault f
        | .refused e => .refused e

/-- The loop over a sequence of iterations. -/
def Relay.run (policy : PublishPolicy) (its : List Iteration) (r : Relay) : Host.Outcome Relay Fault Refusal :=
  match its with
  | [] => .next r
  | it :: rest =>
    match r.iterate policy it with
    | .next r' => Relay.run policy rest r'
    | .fault f => .fault f
    | .refused e => .refused e

/-- A whole run of RelayLoop around the block `s`: its `RST`, then its iterations (R167). -/
def Relay.session (policy : PublishPolicy) (its : List Iteration) (s : State) : Host.Outcome Relay Fault Refusal :=
  match Relay.start s with
  | .next r => Relay.run policy its r
  | .fault f => .fault f
  | .refused e => .refused e

end Sys2Proof.Machine
end

