-- ==== Sys2Proof/Machine/Script.lean ====
section
/-! DEFINITION. The pseudo-commands of the script notation (30_encoding.md R86) and the wire frame (R70). -/

namespace Sys2Proof.Machine

/-- `BYTES b0 ... bk` = `P b0; ...; P bk` (R86). -/
def scriptBytes (bs : List Byte) : List Instr := bs.map Instr.p

/-- The wire frame of a payload of N bytes: START, PAYLOAD, END, CHECKSUM (R70, R73, 20_memory.md R51). -/
def frameBytes (cfg : Config) (payload : Packet) : List Byte :=
  cfg.start :: (payload ++ [cfg.stop, xorFold payload])

/-- `FRAME p0 ... p(N-1)` (R86; "exactly N payload bytes required"). -/
def scriptFrame (cfg : Config) (payload : Packet) : List Instr := scriptBytes (frameBytes cfg payload)

/-- `RELAY b` = `P b; T` (R86, 43_relay_environment.md R167). -/
def scriptRelay (b : Byte) : List Instr := [.p b, .t]

/-- `IDLE` = `T` (R86, R167). -/
def scriptIdle : List Instr := [.t]

/-- The commands of one iteration of the reference driver: `RELAY b` when its read obtained `b`, `IDLE` when it timed out (R167). -/
def iterationCommands (read : Option Byte) : List Instr :=
  match read with
  | none => scriptIdle
  | some b => scriptRelay b

/-- The commands of a sequence of iterations, joined (R167). -/
def driverIterations (reads : List (Option Byte)) : List Instr := reads.flatMap iterationCommands

/-- The reference driver as a command stream (R167): "The whole run is a concatenation of such iterations, preceded by `RST`." -/
def driverCommands (reads : List (Option Byte)) : List Instr := .rst :: driverIterations reads

/-- The iterations `P b0; T; P b1; T; ...` of a source that always has a byte, with each take merged into the next byte:
`P b0; PT b1; ...; T` (R167). -/
def mergedIterations (b : Byte) (bs : List Byte) : List Instr := .p b :: (bs.map Instr.pt ++ [.t])

/-- The canonical command words of a list of bytes: what a host presents on the pins (30_encoding.md R76). -/
def byteWords (bs : List Byte) : List CmdWord := bs.map (CmdWord.ofPins false false true)

end Sys2Proof.Machine
end

