-- ==== Sys2Proof/Safety.lean ====
section
/-! DEFINITION. The terms statements use: a run of commands (20_memory.md R58), what an observer of it sees, and R110's `process` as
one function. -/

namespace Sys2Proof.Machine

/-- The state after a list of instructions: "the left fold of `step` over the sequence" (20_memory.md R58), stopping at the first that
does not complete. -/
def runCommands (is : List Instr) (s : State) : Host.Outcome State Fault Refusal :=
  match is with
  | [] => .next s
  | i :: rest =>
    match exec i s with
    | .next t => runCommands rest t
    | .fault f => .fault f
    | .refused e => .refused e

/-- The states after each instruction of a run, up to the first that does not complete; each holds its step's output record. -/
def trace (is : List Instr) (s : State) : List State :=
  match is with
  | [] => []
  | i :: rest =>
    match exec i s with
    | .next t => t :: trace rest t
    | .fault _ => []
    | .refused _ => []

/-- The packets the takes of a run returned, in order (41_take.md R130). -/
def takenPackets (ts : List State) : List Packet := ts.filterMap (fun t => t.out.taken)

/-- The payload an accepting step puts in the slot (40_process.md R108). -/
def acceptedPayload (t : State) : Option Packet := if t.out.accept then t.slot else none

/-- The payloads of the accepting steps of a run, in order. -/
def acceptedPayloads (ts : List State) : List Packet := ts.filterMap acceptedPayload

/-- The stream bytes a list of instructions carries, in arrival order (20_memory.md R51). -/
def streamBytes (is : List Instr) : List Byte := is.filterMap Instr.byte

/-- The outcome `o` is a next state, and its contents are exactly `r`: a result written so says the frame too. -/
def Completes (o : Host.Outcome State Fault Refusal) (r : Raw) : Prop := ∃ t : State, o = .next t ∧ t.toRaw = r

/-- What the reference driver's iterations hand on, in order: the packet that the iteration's take returned (43_relay_environment.md
R164), with the sink's answer to it (R162). -/
def handedOn (its : List (Option Byte × PublishResult)) (s : State) : List (Packet × PublishResult) :=
  match its with
  | [] => []
  | it :: rest =>
    match runCommands (iterationCommands it.1) s with
    | .next t => t.out.taken.toList.map (fun p => (p, it.2)) ++ handedOn rest t
    | .fault _ => []
    | .refused _ => []

/-- The packets handed on that the sink answered `answer` to. -/
def answered (answer : PublishResult) (ds : List (Packet × PublishResult)) : List Packet :=
  (ds.filter (fun d => d.2 == answer)).map Prod.fst

/-- Two states hold the same block: the same configuration and the same triple (10_state.md R21). -/
def State.sameBlock (s t : State) : Prop := s.cfg = t.cfg ∧ s.st = t.st ∧ s.buf = t.buf ∧ s.slot = t.slot

/-- The result of `process` in R110: the triple and the five flags (sof, accept, rejEnd, rejCsum, drop). -/
structure ProcessResult where
  st : SeqState
  buf : Packet
  slot : Option Packet
  flags : List Event
  deriving DecidableEq, Repr

/-- R110 (40_process.md), transcribed: "the composition of rules R102 to R109". -/
def processAsOneFunction (cfg : Config) (st : SeqState) (buf : Packet) (slot : Option Packet) (b : Byte) : ProcessResult :=
  match st with
  | .awaitingStart =>
    if b = cfg.start then ⟨.receiving, [], slot, [.sof]⟩ else ⟨.awaitingStart, buf, slot, []⟩
  | .receiving =>
    let buf' := buf ++ [b]
    if buf'.length = cfg.n then ⟨.awaitingEnd, buf', slot, []⟩ else ⟨.receiving, buf', slot, []⟩
  | .awaitingEnd =>
    if b = cfg.stop then ⟨.awaitingChecksum, buf, slot, []⟩ else ⟨.awaitingStart, [], slot, [.rejEnd]⟩
  | .awaitingChecksum =>
    let d : List Event := if slot = none then [] else [.drop]
    if b = xorFold buf then ⟨.awaitingStart, [], some buf, .accept :: d⟩ else ⟨.awaitingStart, [], none, .rejCsum :: d⟩

/-- The output record with no packet taken and exactly the flags listed. -/
def Out.ofFlags (flags : List Event) : Out :=
  { taken := none
    sof := flags.contains .sof
    accept := flags.contains .accept
    rejEnd := flags.contains .rejEnd
    rejCsum := flags.contains .rejCsum
    drop := flags.contains .drop }

/-- The edges of the sequencer (10_state.md R22): "The complete edge set", T1 to T7b, besides `RST`. -/
def sequencerEdge (v w : SeqState) : Bool :=
  match v, w with
  | .awaitingStart, .awaitingStart => true
  | .awaitingStart, .receiving => true
  | .receiving, .receiving => true
  | .receiving, .awaitingEnd => true
  | .awaitingEnd, .awaitingChecksum => true
  | .awaitingEnd, .awaitingStart => true
  | .awaitingChecksum, .awaitingStart => true
  | .awaitingStart, .awaitingEnd => false
  | .awaitingStart, .awaitingChecksum => false
  | .receiving, .awaitingStart => false
  | .receiving, .awaitingChecksum => false
  | .awaitingEnd, .receiving => false
  | .awaitingEnd, .awaitingEnd => false
  | .awaitingChecksum, .receiving => false
  | .awaitingChecksum, .awaitingEnd => false
  | .awaitingChecksum, .awaitingChecksum => false

end Sys2Proof.Machine
end

