-- ==== Sys2Proof/Certificates/Slice0/Obligations.lean ====
section
/-! DEFINITION. The statements about the frame synchronizer. A `State` carries INV of 10_state.md R32 in its type, so a statement about
every `State` is one about every state of the machine. `Completes o r` (Safety.lean): `o` is a next state whose contents are `r`; where
`r` is `{ s.toRaw with ... }` it says the frame too: every field not named is as it was. The block has no memory (10_state.md
R36), so no statement speaks of stored bytes. -/

open Sys2Proof Sys2Proof.Machine

/-! ### Decoding and encoding -/

/-- Decode and encode agree on every instruction, with every operand. The command words are R76's canonical words; the words of
the transition rows beyond the table's two bits are the model's choice (assumption 7). -/
def Obligations.DecodeEncodeRoundTrip : Prop :=
  ∀ i : Instr, decode (encode i) = i

/-- R76: each of the 2048 words matches exactly one row, `(cmd & mask) == match`, and decodes to that row's command with its
operand; the canonical words are the encoder's. -/
def Obligations.CommandDecodeFollowsTheTable : Prop :=
  (∀ w : CmdWord,
    (w &&& 0x400#11 = 0x400#11 → decodeCommand w = .rst) ∧
    (w &&& 0x700#11 = 0x000#11 → decodeCommand w = .nop) ∧
    (w &&& 0x700#11 = 0x100#11 → decodeCommand w = .p (w.setWidth 8)) ∧
    (w &&& 0x700#11 = 0x200#11 → decodeCommand w = .t) ∧
    (w &&& 0x700#11 = 0x300#11 → decodeCommand w = .pt (w.setWidth 8)) ∧
    (w &&& 0x400#11 == 0x400#11).toNat + (w &&& 0x700#11 == 0x000#11).toNat + (w &&& 0x700#11 == 0x100#11).toNat
      + (w &&& 0x700#11 == 0x200#11).toNat + (w &&& 0x700#11 == 0x300#11).toNat = 1) ∧
  encode .rst = ⟨.cmd, 0x400#11⟩ ∧ encode .nop = ⟨.cmd, 0x000#11⟩ ∧ encode .t = ⟨.cmd, 0x200#11⟩ ∧
  (∀ b : Byte, encode (.p b) = ⟨.cmd, 0x100#11 + b.setWidth 11⟩ ∧ encode (.pt b) = ⟨.cmd, 0x300#11 + b.setWidth 11⟩)

/-- The other direction (R77: "The canonical word has ignored bits 0"): encoding what a command word decodes to gives that word
with its ignored bits 0, and every transition word (the model's layout, assumption 7) comes back whole. -/
def Obligations.EncodeDecodeIsCanonical : Prop :=
  (∀ w : CmdWord, encode (decodeCommand w) =
    ⟨.cmd, if w.getLsbD 10 then 0x400#11 else if w.getLsbD 8 then w else w &&& 0x700#11⟩) ∧
  (∀ w : CmdWord, encode (decodeTransition w) = ⟨.trans, w⟩)

/-- Words of 95_test_vectors.md (V12 to V13g) and R79's rows decode to what the spec says. That a number of twelve bits, 0x800, is
rejected is the model's choice (assumption 10): the spec has no such word. -/
def Obligations.SampleWordsDecode : Prop :=
  decodeTableWord 16 0x000 = some .nop ∧ decodeTableWord 16 0x0AB = some .nop ∧
  decodeTableWord 16 0x1FF = some (.p 0xFF#8) ∧ decodeTableWord 16 0x2EE = some .t ∧
  decodeTableWord 16 0x3DD = some (.pt 0xDD#8) ∧ decodeTableWord 16 0x7FF = some .rst ∧
  decodeTableWord 16 0x800 = none ∧
  decodeRow 0b00#2 true = .T1 ∧ decodeRow 0b01#2 true = .T4 ∧ decodeRow 0b10#2 false = .T6 ∧ decodeRow 0b11#2 true = .T7a

/-! ### One step -/

/-- A step runs the decoded command: the head of the host's stream is consumed (R58, R75) and executed; when the host presents
nothing the step is a NOP (R132; assumption 2). Only the model's own fields change around `exec`. -/
def Obligations.StepRunsTheDecodedCommand : Prop :=
  (∀ (s : State) (w : CmdWord) (ws : List CmdWord), s.input = w :: ws →
    step s = exec (decodeCommand w) { s with input := ws, draws := s.draws + 1, legal := s.legal }) ∧
  (∀ s : State, s.input = [] → step s = exec .nop { s with draws := s.draws + 1, legal := s.legal })

/-- Staging (the model's own `withFetchWord`, assumptions 2 and 15): a staged command word is what the very next step runs, on the state
as it was; a staged row that is well-formed for the configuration is performed by the very next step, and completes. -/
def Obligations.StagedInstructionRunsNext : Prop :=
  (∀ (s : State) (w : Nat), w < 2048 →
    step (s.withFetchWord 16 w) = exec (decodeCommand (BitVec.ofNat 11 w)) { s with draws := s.draws + 1, legal := s.legal }) ∧
  (∀ (s : State) (r : Row) (b : Byte), (r.instr b).WellFormed s.cfg →
    ∃ u t : State, u.cfg = s.cfg ∧ u.slot = s.slot ∧ u.input = s.input ∧
      step (s.stageRow r b) = exec (r.instr b) u ∧ exec (r.instr b) u = .next t)

/-- `P b` performs the one transition that R79 selects, in the sense that the row taken on its own gives the same step; a row
that is not selected is refused (the model's choice, assumption 6). R100. -/
def Obligations.ProcessPerformsTheSelectedRow : Prop :=
  ∀ (s : State) (b : Byte),
    exec (.p b) s = exec ((s.select b).instr b) s ∧
    (∃ t, exec (.p b) s = .next t ∧ t.out.taken = none) ∧
    (∀ r : Row, r ≠ s.select b → exec (r.instr b) s = .refused .rowNotSelected)

/-- The selector of R79, predicate by predicate: in a state of the machine exactly one row applies (R80). -/
def Obligations.SelectorFollowsTheTransitionTable : Prop :=
  ∀ (s : State) (b : Byte),
    (s.select b = .T1 ↔ s.st = .awaitingStart ∧ b = s.cfg.start) ∧
    (s.select b = .T2 ↔ s.st = .awaitingStart ∧ b ≠ s.cfg.start) ∧
    (s.select b = .T3 ↔ s.st = .receiving ∧ s.buf.length + 1 < s.cfg.n) ∧
    (s.select b = .T4 ↔ s.st = .receiving ∧ s.buf.length + 1 = s.cfg.n) ∧
    (s.select b = .T5 ↔ s.st = .awaitingEnd ∧ b = s.cfg.stop) ∧
    (s.select b = .T6 ↔ s.st = .awaitingEnd ∧ b ≠ s.cfg.stop) ∧
    (s.select b = .T7a ↔ s.st = .awaitingChecksum ∧ b = xorFold s.buf) ∧
    (s.select b = .T7b ↔ s.st = .awaitingChecksum ∧ b ≠ xorFold s.buf)

/-- R110: `P b` is `process` as one function, with exactly its flags, and nothing else changes. -/
def Obligations.ProcessIsOneFunction : Prop :=
  ∀ (s : State) (b : Byte),
    Completes (exec (.p b) s) { s.toRaw with
      st := (processAsOneFunction s.cfg s.st s.buf s.slot b).st
      buf := (processAsOneFunction s.cfg s.st s.buf s.slot b).buf
      slot := (processAsOneFunction s.cfg s.st s.buf s.slot b).slot
      out := Out.ofFlags (processAsOneFunction s.cfg s.st s.buf s.slot b).flags }

/-! ### The transitions, as a row, in `P b` and in `PT b` -/

/-- T1 (R102). -/
def Obligations.StartOfFrameResult : Prop :=
  ∀ (s : State) (b : Byte), s.st = .awaitingStart → b = s.cfg.start →
    Completes (exec (.t1 b) s) { s.toRaw with buf := [], st := .receiving, out := { Out.quiet with sof := true } } ∧
    Completes (exec (.p b) s) { s.toRaw with buf := [], st := .receiving, out := { Out.quiet with sof := true } } ∧
    Completes (exec (.pt b) s) { s.toRaw with
      buf := [], st := .receiving, slot := none
      out := { Out.quiet with sof := true, taken := s.slot } }

/-- T2 (R103). -/
def Obligations.HuntResult : Prop :=
  ∀ (s : State) (b : Byte), s.st = .awaitingStart → b ≠ s.cfg.start →
    s.buf = [] ∧
    Completes (exec (.t2 b) s) { s.toRaw with out := Out.quiet } ∧
    Completes (exec (.p b) s) { s.toRaw with out := Out.quiet } ∧
    Completes (exec (.pt b) s) { s.toRaw with slot := none, out := { Out.quiet with taken := s.slot } }

/-- T3 (R104), "Never selected when `cfg.N = 1`". -/
def Obligations.AccumulateResult : Prop :=
  (∀ (s : State) (b : Byte), s.st = .receiving → s.buf.length + 1 < s.cfg.n →
    Completes (exec (.t3 b) s) { s.toRaw with buf := s.buf ++ [b], st := .receiving, out := Out.quiet } ∧
    Completes (exec (.p b) s) { s.toRaw with buf := s.buf ++ [b], st := .receiving, out := Out.quiet } ∧
    Completes (exec (.pt b) s) { s.toRaw with
      buf := s.buf ++ [b], st := .receiving, slot := none
      out := { Out.quiet with taken := s.slot } }) ∧
  (∀ (s : State) (b : Byte), s.cfg.n = 1 → s.select b ≠ .T3)

/-- T4 (R105); and START followed by exactly N arbitrary bytes ends in AwaitingEnd with those N bytes in the buffer. -/
def Obligations.PayloadCompleteResult : Prop :=
  (∀ (s : State) (b : Byte), s.st = .receiving → s.buf.length + 1 = s.cfg.n →
    Completes (exec (.t4 b) s) { s.toRaw with buf := s.buf ++ [b], st := .awaitingEnd, out := Out.quiet } ∧
    Completes (exec (.p b) s) { s.toRaw with buf := s.buf ++ [b], st := .awaitingEnd, out := Out.quiet } ∧
    Completes (exec (.pt b) s) { s.toRaw with
      buf := s.buf ++ [b], st := .awaitingEnd, slot := none
      out := { Out.quiet with taken := s.slot } }) ∧
  (∀ (s : State) (p : Packet), s.st = .awaitingStart → p.length = s.cfg.n →
    ∃ t, runCommands (scriptBytes (s.cfg.start :: p)) s = .next t ∧ t.st = .awaitingEnd ∧ t.buf = p)

/-- T5 (R106). -/
def Obligations.EndFoundResult : Prop :=
  ∀ (s : State) (b : Byte), s.st = .awaitingEnd → b = s.cfg.stop →
    Completes (exec (.t5 b) s) { s.toRaw with st := .awaitingChecksum, out := Out.quiet } ∧
    Completes (exec (.p b) s) { s.toRaw with st := .awaitingChecksum, out := Out.quiet } ∧
    Completes (exec (.pt b) s) { s.toRaw with st := .awaitingChecksum, slot := none, out := { Out.quiet with taken := s.slot } }

/-- T6 (R107): the slot survives in `P b`, and a byte equal to START is not a new START. -/
def Obligations.EndRejectionResult : Prop :=
  ∀ (s : State) (b : Byte), s.st = .awaitingEnd → b ≠ s.cfg.stop →
    Completes (exec (.t6 b) s) { s.toRaw with buf := [], st := .awaitingStart, out := { Out.quiet with rejEnd := true } } ∧
    Completes (exec (.p b) s) { s.toRaw with buf := [], st := .awaitingStart, out := { Out.quiet with rejEnd := true } } ∧
    Completes (exec (.pt b) s) { s.toRaw with
      buf := [], st := .awaitingStart, slot := none
      out := { Out.quiet with rejEnd := true, taken := s.slot } }

/-- T7a (R108): `Drop` in `P b` exactly when the slot was full, never in `PT b`. -/
def Obligations.FrameAcceptedResult : Prop :=
  ∀ (s : State) (b : Byte), s.st = .awaitingChecksum → b = xorFold s.buf →
    Completes (exec (.t7a b) s) { s.toRaw with
      slot := some s.buf, buf := [], st := .awaitingStart
      out := { Out.quiet with accept := true, drop := s.slot.isSome } } ∧
    Completes (exec (.p b) s) { s.toRaw with
      slot := some s.buf, buf := [], st := .awaitingStart
      out := { Out.quiet with accept := true, drop := s.slot.isSome } } ∧
    Completes (exec (.pt b) s) { s.toRaw with
      slot := some s.buf, buf := [], st := .awaitingStart
      out := { Out.quiet with accept := true, taken := s.slot } }

/-- T7b (R109): the slot is cleared even when it holds an earlier, valid frame's packet, and a take after it returns nothing. -/
def Obligations.ChecksumRejectionResult : Prop :=
  ∀ (s : State) (b : Byte), s.st = .awaitingChecksum → b ≠ xorFold s.buf →
    Completes (exec (.t7b b) s) { s.toRaw with
      slot := none, buf := [], st := .awaitingStart
      out := { Out.quiet with rejCsum := true, drop := s.slot.isSome } } ∧
    Completes (exec (.p b) s) { s.toRaw with
      slot := none, buf := [], st := .awaitingStart
      out := { Out.quiet with rejCsum := true, drop := s.slot.isSome } } ∧
    Completes (exec (.pt b) s) { s.toRaw with
      slot := none, buf := [], st := .awaitingStart
      out := { Out.quiet with rejCsum := true, taken := s.slot } } ∧
    ∃ t u : State, exec (.p b) s = .next t ∧ exec .t t = .next u ∧ u.out.taken = none

/-! ### `T`, `NOP`, `PT`, `RST`, `CONFIG` -/

/-- `T` (R130): returns the slot, empties it, and touches nothing else; from an empty slot it returns none and changes nothing. -/
def Obligations.TakeResult : Prop :=
  ∀ s : State,
    Completes (exec .t s) { s.toRaw with slot := none, out := { Out.quiet with taken := s.slot } } ∧
    (s.slot = none → Completes (exec .t s) { s.toRaw with out := Out.quiet })

/-- `NOP` (R132), and any number of them anywhere. -/
def Obligations.NopResult : Prop :=
  ∀ s : State,
    Completes (exec .nop s) { s.toRaw with out := Out.quiet } ∧
    ∀ k : Nat, Completes (runCommands (List.replicate (k + 1) .nop) s) { s.toRaw with out := Out.quiet }

/-- `PT b` (R133) is `T` followed by `P b`: same final state, the packet of the `T`, the events of the `P b`, never `Drop`. -/
def Obligations.TakeThenProcessResult : Prop :=
  ∀ (s : State) (b : Byte), ∃ s1 s2 : State,
    exec .t s = .next s1 ∧ exec (.p b) s1 = .next s2 ∧ s1.out.taken = s.slot ∧ s2.out.drop = false ∧
    Completes (exec (.pt b) s) { s2.toRaw with out := { s2.out with taken := s.slot } }

/-- `RST` (R150): whatever the state and the other bits of the word, the reset triple, no event, nothing taken, `cfg` unaffected; it
changes nothing in the reset state; and it is the only command whose effect does not depend on the current state. -/
def Obligations.ResetCommandResult : Prop :=
  (∀ (s : State) (w : CmdWord), w.getLsbD 10 = true →
    Completes (exec (decodeCommand w) s) { s.toRaw with st := .awaitingStart, buf := [], slot := none, out := Out.quiet }) ∧
  (∀ cfg : Config, exec .rst (State.resetOf cfg) = .next (State.resetOf cfg)) ∧
  (∀ (cfg : Config) (i : Instr), i.isCommand = true → i ≠ .rst → ∃ s s' t t' : State,
    s.cfg = cfg ∧ s'.cfg = cfg ∧ exec i s = .next t ∧ exec i s' = .next t' ∧
    ¬ (t.st = t'.st ∧ t.buf = t'.buf ∧ t.slot = t'.slot))

/-- The reset state and the ports that show it (R210, R37), for every configuration. -/
def Obligations.ResetStateValues : Prop :=
  ∀ cfg : Config,
    (State.resetOf cfg).st = .awaitingStart ∧ (State.resetOf cfg).buf = [] ∧ (State.resetOf cfg).slot = none ∧
    (State.resetOf cfg).stPort = 0b00#2 ∧ (State.resetOf cfg).lenPort = 0 ∧ (State.resetOf cfg).pktValid = false ∧
    (State.resetOf cfg).evPort = 0b00000#5 ∧ (State.resetOf cfg).cfg = cfg

/-- The defaults of the reference deployment (R74, R8), its frame of 163 bytes (R70), LW = 8 (R10) and the 2571 bits of its state
(R40). That `State.reset` holds this configuration is the model's choice (assumption 1). -/
def Obligations.ReferenceDeployment : Prop :=
  State.reset.cfg.start = 0xFF#8 ∧ State.reset.cfg.stop = 0xEE#8 ∧ State.reset.cfg.n = 160 ∧
  frameLength State.reset.cfg = 163 ∧ lenWidth State.reset.cfg = 8 ∧
  stateBits State.reset.cfg = 2571

/-- `CONFIG` (R151) is legal exactly when N >= 1. That the instance stands at its reset state is the model's reading
(assumption 8). -/
def Obligations.ConstructionRefusesOnlyZeroLength : Prop :=
  ∀ (start stop : Byte) (n : Nat),
    (n = 0 → construct start stop n = .refused .zeroPayloadLength) ∧
    (1 ≤ n → ∃ cfg : Config, cfg.start = start ∧ cfg.stop = stop ∧ cfg.n = n ∧
      construct start stop n = .next (State.resetOf cfg))

/-! ### Invariants and frames over all instructions -/

/-- INV (R32) is kept: by a take, by `process` of every byte, by the two together and by a reset, on raw contents; and so every step
from a state ends in a state, whatever the host presents ("`step` preserves it"). -/
def Obligations.InvariantKeptByEveryStep : Prop :=
  (∀ r : Raw, r.Inv → r.fresh.Inv ∧ r.take.Inv ∧ r.resync.clearSlot.Inv ∧
    ∀ b : Byte, (r.process b).Inv ∧ (r.take.process b).Inv) ∧
  (∀ s : State, ∃ t : State, step s = .next t ∧ t.toRaw.Inv)

/-- INV (R32) holds at reset, for every configuration, and `RST` establishes it from any raw contents (R213: before the first `RST` the
state is unspecified). -/
def Obligations.ResetMeetsInvariant : Prop :=
  State.reset.toRaw.Inv ∧ (∀ cfg : Config, (State.resetOf cfg).toRaw.Inv) ∧ ∀ r : Raw, r.fresh.resync.clearSlot.Inv

/-- No fault, no refusal, nothing stuck: every command and every step completes, from every state (R80, R196). -/
def Obligations.EveryCommandCompletes : Prop :=
  ∀ s : State, (∀ i : Instr, i.isCommand = true → ∃ t, exec i s = .next t) ∧ (∃ t, step s = .next t)

/-- Contents outside INV are no state (R32, R87: "a model refuses them by making them unrepresentable"): they are refused by name, all
others are the contents of exactly one state, and no instruction ends in that refusal. -/
def Obligations.RefusedExactlyOutsideInvariant : Prop :=
  (∀ r : Raw, State.ofRaw r = .refused .outsideInvariant ↔ ¬ r.Inv) ∧
  (∀ r : Raw, r.Inv ↔ ∃ s : State, s.toRaw = r ∧ State.ofRaw r = .next s) ∧
  (∀ s t : State, s.toRaw = t.toRaw → s = t) ∧
  (∀ (i : Instr) (s : State), exec i s ≠ .refused .outsideInvariant)

/-- The configuration is never written (R20, R152, R222), by an instruction or by a step, in any state; and `exec` leaves the
model's own fields alone. -/
def Obligations.ConfigurationNeverChanges : Prop :=
  (∀ (i : Instr) (s t : State), exec i s = .next t → t.cfg = s.cfg ∧ t.input = s.input ∧ t.draws = s.draws) ∧
  (∀ s t : State, step s = .next t → t.cfg = s.cfg)

/-- The complete edge set of the sequencer (R22): an instruction that carries a byte takes one of these edges, one that carries none
stays, `RST` goes to AwaitingStart from every state; and every edge is taken by some byte from some state of the machine, for some
configuration. -/
def Obligations.SequencerEdgesAreComplete : Prop :=
  (∀ (i : Instr) (s t : State), i ≠ .rst → exec i s = .next t →
    if i.byte = none then t.st = s.st else sequencerEdge s.st t.st = true) ∧
  (∀ s t : State, exec .rst s = .next t → t.st = .awaitingStart) ∧
  (∀ v w : SeqState, sequencerEdge v w = true →
    ∃ (s t : State) (b : Byte), s.st = v ∧ exec (.p b) s = .next t ∧ t.st = w)

/-- Who writes `st` and `buf` (R27, R33): an instruction that carries no byte changes neither, but `RST`; one that carries a byte
appends it in Receiving and nowhere else, and otherwise keeps or clears the buffer. -/
def Obligations.BufferWriters : Prop :=
  ∀ (i : Instr) (s t : State), i ≠ .rst → exec i s = .next t →
    (i.byte = none → t.st = s.st ∧ t.buf = s.buf) ∧
    (∀ b, i.byte = some b →
      (s.st = .awaitingStart → t.buf = []) ∧
      (s.st = .receiving → t.buf = s.buf ++ [b]) ∧
      (s.st = .awaitingEnd → t.buf = if b = s.cfg.stop then s.buf else []) ∧
      (s.st = .awaitingChecksum → t.buf = []))

/-- The packet slot multiplexer (R134): the next `slot` is chosen by the first row that applies. -/
def Obligations.SlotMultiplexer : Prop :=
  ∀ (i : Instr) (s t : State), i.isCommand = true → exec i s = .next t →
    t.slot =
      (if i = .rst then none
       else if i.byte.map s.select = some .T7a then some s.buf
       else if i.byte.map s.select = some .T7b then none
       else if i = .t ∨ ∃ b, i = .pt b then none
       else s.slot) ∧
    t.pktValid = t.slot.isSome

/-- The output record of every instruction (R17, R84): each flag is raised by its transitions and by nothing else, `taken` is the
slot exactly in a take, and `ev` has one of seven values. -/
def Obligations.OutputRecordOfEveryInstruction : Prop :=
  ∀ (i : Instr) (s t : State), exec i s = .next t →
    (t.out.sof = true ↔ i.byte.map s.select = some .T1) ∧
    (t.out.accept = true ↔ i.byte.map s.select = some .T7a) ∧
    (t.out.rejEnd = true ↔ i.byte.map s.select = some .T6) ∧
    (t.out.rejCsum = true ↔ i.byte.map s.select = some .T7b) ∧
    (t.out.drop = true ↔ (i.byte.map s.select = some .T7a ∨ i.byte.map s.select = some .T7b) ∧ s.slot ≠ none ∧
      ∀ b, i ≠ .pt b) ∧
    t.out.taken = (if i = .t ∨ ∃ b, i = .pt b then s.slot else none) ∧
    t.evPort ∈ [0b00000#5, 0b00001#5, 0b00010#5, 0b10010#5, 0b00100#5, 0b01000#5, 0b11000#5] ∧
    (t.evPort.getLsbD 0 = t.out.sof ∧ t.evPort.getLsbD 1 = t.out.accept ∧ t.evPort.getLsbD 2 = t.out.rejEnd ∧
      t.evPort.getLsbD 3 = t.out.rejCsum ∧ t.evPort.getLsbD 4 = t.out.drop)

/-- An instruction can occur under a configuration exactly when it is well-formed (the model's reading of R79's predicates,
assumption 18). -/
def Obligations.WellFormedMeansItCanOccur : Prop :=
  ∀ (cfg : Config) (i : Instr), i.WellFormed cfg ↔ ∃ s t : State, s.cfg = cfg ∧ exec i s = .next t

/-! ### Ports and the checksum function -/

/-- The port `len` shows the length of the buffer without truncation, and LW is the number of bits needed to write N (R10,
R25, R116). -/
def Obligations.LengthPortIsExact : Prop :=
  (∀ s : State, s.lenPort.toNat = s.buf.length ∧ s.buf.length ≤ s.cfg.n) ∧
  (∀ cfg : Config, 2 ^ (lenWidth cfg - 1) ≤ cfg.n ∧ cfg.n < 2 ^ lenWidth cfg)

/-- The packet port (R29, R52): `pkt_valid` says the slot is full, byte i is in lane `[8i+7 : 8i]`, and a take returns the packet the
port showed before it, lane by lane, or none where `pkt_valid` was 0 (R83). Nothing is said of `pkt_data` while the slot is empty. -/
def Obligations.PacketPortLanes : Prop :=
  ∀ (s : State),
    (s.pktValid = true ↔ s.slot ≠ none) ∧
    (∀ (p : Packet), s.slot = some p → p.length = s.cfg.n ∧
      ∀ (i : Nat) (h : i < p.length), s.pktData.extractLsb' (8 * i) 8 = p[i]) ∧
    (∃ t, exec .t s = .next t ∧ t.out.taken.isSome = s.pktValid ∧
      ∀ (p : Packet), t.out.taken = some p → p.length = s.cfg.n ∧
        ∀ (i : Nat) (h : i < p.length), p[i] = s.pktData.extractLsb' (8 * i) 8)

/-- `xor_fold` (R101): the two defining equations, order independence, the parity of each bit (the rule's own inference), and the
source's two examples. -/
def Obligations.XorFoldIsTheChecksum : Prop :=
  xorFold [] = 0x00#8 ∧
  (∀ (p : Packet) (b : Byte), xorFold (p ++ [b]) = xorFold p ^^^ b) ∧
  (∀ p q : Packet, p.Perm q → xorFold p = xorFold q) ∧
  (∀ (p : Packet) (k : Nat), k < 8 → ((xorFold p).getLsbD k = true ↔ (p.countP (fun b => b.getLsbD k)) % 2 = 1)) ∧
  xorFold [0x01#8, 0x02#8, 0x03#8] = 0x00#8 ∧ xorFold [0xAA#8, 0xBB#8, 0xCC#8] = 0xDD#8

/-- What the checksum cannot see (R220): changing the payload by a mask of the same length changes the checksum by the fold of the
mask, so a corruption is undetected exactly when its mask folds to the difference of the checksum byte. -/
def Obligations.ChecksumDetectsExactlyTheFoldedDifference : Prop :=
  (∀ p m : Packet, m.length = p.length → xorFold (List.zipWith (fun a d => a ^^^ d) p m) = xorFold p ^^^ xorFold m) ∧
  (∀ (s s' : State) (m : Packet) (d : Byte), s.st = .awaitingChecksum → m.length = s.cfg.n →
    s'.toRaw = { s.toRaw with buf := List.zipWith (fun a d => a ^^^ d) s.buf m } →
    ((∃ t, exec (.p (xorFold s.buf ^^^ d)) s' = .next t ∧ t.out.accept = true) ↔ xorFold m = d))

/-! ### Runs of commands -/

/-- Hunting (R103, property 1): no sequence of bytes without START changes the block in AwaitingStart. -/
def Obligations.HuntingIgnoresEveryByteButStart : Prop :=
  ∀ (bs : List Byte) (s : State), s.st = .awaitingStart → (∀ b ∈ bs, b ≠ s.cfg.start) →
    ∃ t, runCommands (scriptBytes bs) s = .next t ∧ s.sameBlock t ∧ t.buf = []

/-- Property 3 and R113: after START, any bytes at all are payload until there are N of them, markers included. -/
def Obligations.PayloadIsReceivedByPosition : Prop :=
  ∀ (p : Packet) (s : State), s.st = .awaitingStart → p.length ≤ s.cfg.n →
    ∃ t, runCommands (scriptBytes (s.cfg.start :: p)) s = .next t ∧ t.buf = p ∧ t.slot = s.slot ∧
      t.st = if p.length = s.cfg.n then .awaitingEnd else .receiving

/-- The round trip (property 4), on the machine's own steps: from any state in AwaitingStart, N+3 steps over a wire frame that the host
presents (R70) put exactly its payload in the slot (R108), with `Accept`; a take then returns it and a second take nothing. -/
def Obligations.FrameRoundTrip : Prop :=
  ∀ (s : State) (p : Packet) (rest : List CmdWord), s.st = .awaitingStart → p.length = s.cfg.n →
    s.input = byteWords (frameBytes s.cfg p) ++ rest →
    ∃ t u v : State,
      Host.Core.run Sys2Proof.core (frameLength s.cfg) s = .next t ∧
      t.toRaw = { s.toRaw with
        slot := some p, buf := [], st := .awaitingStart, input := rest, draws := s.draws + frameLength s.cfg
        out := { Out.quiet with accept := true, drop := s.slot.isSome } } ∧
      exec .t t = .next u ∧ u.out.taken = some p ∧ exec .t u = .next v ∧ v.out.taken = none ∧ v.st = .awaitingStart

/-- The acceptance criterion (R112): START, N bytes, `e`, `c` from AwaitingStart put the payload in the slot if and only if `e` is END
and `c` is its checksum; and where each sequence ends. -/
def Obligations.AcceptanceCriterion : Prop :=
  ∀ (s : State) (p : Packet) (e c : Byte), s.st = .awaitingStart → p.length = s.cfg.n →
    ∃ t u : State,
      runCommands (scriptBytes (s.cfg.start :: (p ++ [e]))) s = .next t ∧ exec (.p c) t = .next u ∧
      ((∃ v ∈ trace (scriptBytes (s.cfg.start :: (p ++ [e, c]))) s, v.out.accept = true) ↔ e = s.cfg.stop ∧ c = xorFold p) ∧
      (e = s.cfg.stop → u.st = .awaitingStart ∧ u.buf = [] ∧ u.slot = if c = xorFold p then some p else none) ∧
      (e ≠ s.cfg.stop → t.st = .awaitingStart ∧ t.buf = [] ∧ t.slot = s.slot ∧ u.slot = s.slot ∧
        u.st = if c = s.cfg.start then .receiving else .awaitingStart)

/-- L13: an accepting step comes only after a whole frame. In a run without `RST` from AwaitingStart, if the next instruction
raises `Accept`, the last N+3 stream bytes are START, N bytes, END and their checksum, and those N bytes are in the slot. -/
def Obligations.AcceptOnlyAfterAWholeFrame : Prop :=
  ∀ (is : List Instr) (i : Instr) (s t u : State), s.st = .awaitingStart → (∀ j ∈ is, j ≠ .rst) →
    runCommands is s = .next t → exec i t = .next u → u.out.accept = true →
    ∃ (before : List Byte) (p : Packet), p.length = s.cfg.n ∧
      streamBytes (is ++ [i]) = before ++ frameBytes s.cfg p ∧ u.slot = some p

/-- The byte side never depends on the consumer (R130, R132, R219): takes and idle cycles anywhere, and the slot's content, do
not change how bytes are received. Two runs whose stream bytes agree end with the same `st` and `buf`. -/
def Obligations.ReceptionIgnoresTakesAndPauses : Prop :=
  ∀ (is js : List Instr) (s s' : State), s.cfg = s'.cfg → s.st = s'.st → s.buf = s'.buf →
    (∀ i ∈ is, i.isCommand = true ∧ i ≠ .rst) → (∀ i ∈ js, i.isCommand = true ∧ i ≠ .rst) → streamBytes is = streamBytes js →
    ∃ t t' : State, runCommands is s = .next t ∧ runCommands js s' = .next t' ∧ t.st = t'.st ∧ t.buf = t'.buf

/-- Order and no duplication (L16, R131): the packets taken in a run are, in order, among the packet pending at its start
and the payloads of its accepting steps, each at most once. -/
def Obligations.TakenPacketsAreAcceptedPayloadsInOrder : Prop :=
  ∀ (is : List Instr) (s t : State), runCommands is s = .next t →
    (takenPackets (trace is s)).Sublist (s.slot.toList ++ acceptedPayloads (trace is s))

/-- No loss under the reference driver (R168, R135): from any state its whole run, the leading `RST` included (R167), never raises `Drop`,
ends with the slot empty, and takes exactly the payloads of the accepting steps, in order. So do its iterations alone, from any state
with an empty slot. -/
def Obligations.ReferenceDriverLosesNothing : Prop :=
  ∀ (reads : List (Option Byte)) (s : State) (is : List Instr),
    is = driverCommands reads ∨ (is = driverIterations reads ∧ s.slot = none) →
    ∃ t, runCommands is s = .next t ∧ t.slot = none ∧ (∀ v ∈ trace is s, v.out.drop = false) ∧
      takenPackets (trace is s) = acceptedPayloads (trace is s)

/-- The driver with merged takes (R167): `P b0; T; P b1; T; ...` may be issued as `P b0; PT b1; ...; T`, with the same final state and
the same packets in the same order; the leading `RST` of the whole run included or not. -/
def Obligations.MergedTakesDriveTheSame : Prop :=
  ∀ (b : Byte) (bs : List Byte) (s : State),
    runCommands (driverIterations ((b :: bs).map some)) s = runCommands (mergedIterations b bs) s ∧
    takenPackets (trace (driverIterations ((b :: bs).map some)) s) = takenPackets (trace (mergedIterations b bs) s) ∧
    runCommands (driverCommands ((b :: bs).map some)) s = runCommands (.rst :: mergedIterations b bs) s ∧
    takenPackets (trace (driverCommands ((b :: bs).map some)) s) = takenPackets (trace (.rst :: mergedIterations b bs) s)

/-- The take window (R216): a packet pending in AwaitingStart survives any commands without take or reset that carry at most N+2
bytes, and a take, alone or merged with the next byte, then returns it. -/
def Obligations.TakeWindow : Prop :=
  ∀ (is : List Instr) (s : State) (p : Packet), s.st = .awaitingStart → s.slot = some p →
    (∀ i ∈ is, i = .nop ∨ ∃ b, i = .p b) → (streamBytes is).length ≤ s.cfg.n + 2 →
    ∃ t, runCommands is s = .next t ∧ t.slot = some p ∧
      (∃ u, exec .t t = .next u ∧ u.out.taken = some p) ∧
      (∀ b, ∃ u, exec (.pt b) t = .next u ∧ u.out.taken = some p ∧ u.out.drop = false)

/-! ### Refinement and the environment -/

/-- The hardware the spec sketches, with a length counter, an N-entry store, a running checksum accumulator (R25, R31) and a slot
whose load wins over the take's clear (R134), does at each rising edge exactly what the model's command does on the state it stands
for, and keeps its invariant, `acc = xor_fold(buf)` among it. The datapath is the model's own rendering (assumption 12). -/
def Obligations.DatapathRefinesTheModel : Prop :=
  ∀ (d : Datapath) (w : CmdWord), d.wf = true →
    (d.clock w).wf = true ∧
    ∃ s t : State, s.toRaw = d.abstract ∧ exec (decodeCommand w) s = .next t ∧ t.toRaw = (d.clock w).abstract

/-- RelayLoop (R164, R167) drives the block by exactly the reference driver's commands, `RST` first: with no cancellation, no fatal read
and a sink whose errors do not stop it, the block ends as after that command stream. Every accepted payload, and nothing else, is copied
to the decoder and given to the sink, in order: those the sink answers `ok` are the published ones, those it answers `error` the failed
ones (R162: "`bytes` is exactly the `taken` packet"). RelayLoop is the environment (assumption 13). -/
def Obligations.RelayLoopIsTheReferenceDriver : Prop :=
  ∀ (its : List (Option Byte × PublishResult)) (s : State), ∃ (s0 : State) (r : Relay),
    exec .rst s = .next s0 ∧
    Relay.session .continuing (its.map (fun it => Iteration.undisturbed it.1 it.2)) s = .next r ∧
    r.status = .running ∧
    runCommands (driverCommands (its.map Prod.fst)) s = .next r.block ∧
    r.diagnosed = acceptedPayloads (trace (driverCommands (its.map Prod.fst)) s) ∧
    r.diagnosed = (handedOn its s0).map Prod.fst ∧
    r.published = answered .ok (handedOn its s0) ∧
    r.failed = answered .error (handedOn its s0)

/-- The loop stops in orderly fashion (R165, R166): cancellation at the top of an iteration, or a fatal read, ends it with the block
and the deliveries untouched and both connections released, whatever iterations are listed after (assumption 13). -/
def Obligations.RelayLoopStopsBetweenIterations : Prop :=
  ∀ (policy : PublishPolicy) (it : Iteration) (rest : List Iteration) (r : Relay), r.status = .running →
    (it.cancel = true → Relay.run policy (it :: rest) r =
      .next { r with status := .cancelled, transport := .released, bus := .released }) ∧
    (it.cancel = false → it.read = .fatal → Relay.run policy (it :: rest) r =
      .next { r with status := .sourceFailed, transport := .released, bus := .released })

/-- Every run of RelayLoop, whatever the environment answers (R165, R170): it completes; both connections are held while it runs and
released on every exit path; each packet taken is copied to the decoder and is either published or failed; and a sink error ends it
exactly under the aborting policy, a deployment decision (R162), at its first failure (assumption 13). -/
def Obligations.RelayLoopReleasesOnEveryExit : Prop :=
  ∀ (policy : PublishPolicy) (its : List Iteration) (s : State), ∃ r : Relay,
    Relay.session policy its s = .next r ∧
    (r.status = .running ∧ r.transport = .held ∧ r.bus = .held ∨
      r.status ≠ .running ∧ r.transport = .released ∧ r.bus = .released) ∧
    (r.published ++ r.failed).Perm r.diagnosed ∧
    (r.status = .sinkFailed ↔ policy = .aborting ∧ r.failed ≠ []) ∧
    (policy = .aborting → r.failed.length ≤ 1)
end

