-- ==== Sys2Proof/Laws/State.lean ====
section
/-! SUPPORT. One lemma per field per update, each true by rfl. -/

namespace Sys2Proof.Machine

@[simp] theorem Raw.fresh_cfg (s : Raw) : (s.fresh).cfg = s.cfg := rfl
@[simp] theorem Raw.fresh_st (s : Raw) : (s.fresh).st = s.st := rfl
@[simp] theorem Raw.fresh_buf (s : Raw) : (s.fresh).buf = s.buf := rfl
@[simp] theorem Raw.fresh_slot (s : Raw) : (s.fresh).slot = s.slot := rfl
@[simp] theorem Raw.fresh_out (s : Raw) : (s.fresh).out = Out.quiet := rfl
@[simp] theorem Raw.fresh_input (s : Raw) : (s.fresh).input = s.input := rfl
@[simp] theorem Raw.fresh_draws (s : Raw) : (s.fresh).draws = s.draws := rfl

@[simp] theorem Raw.setSt_cfg (s : Raw) (v : SeqState) : (s.setSt v).cfg = s.cfg := rfl
@[simp] theorem Raw.setSt_st (s : Raw) (v : SeqState) : (s.setSt v).st = v := rfl
@[simp] theorem Raw.setSt_buf (s : Raw) (v : SeqState) : (s.setSt v).buf = s.buf := rfl
@[simp] theorem Raw.setSt_slot (s : Raw) (v : SeqState) : (s.setSt v).slot = s.slot := rfl
@[simp] theorem Raw.setSt_out (s : Raw) (v : SeqState) : (s.setSt v).out = s.out := rfl
@[simp] theorem Raw.setSt_input (s : Raw) (v : SeqState) : (s.setSt v).input = s.input := rfl
@[simp] theorem Raw.setSt_draws (s : Raw) (v : SeqState) : (s.setSt v).draws = s.draws := rfl

@[simp] theorem Raw.clearBuf_cfg (s : Raw) : (s.clearBuf).cfg = s.cfg := rfl
@[simp] theorem Raw.clearBuf_st (s : Raw) : (s.clearBuf).st = s.st := rfl
@[simp] theorem Raw.clearBuf_buf (s : Raw) : (s.clearBuf).buf = [] := rfl
@[simp] theorem Raw.clearBuf_slot (s : Raw) : (s.clearBuf).slot = s.slot := rfl
@[simp] theorem Raw.clearBuf_out (s : Raw) : (s.clearBuf).out = s.out := rfl
@[simp] theorem Raw.clearBuf_input (s : Raw) : (s.clearBuf).input = s.input := rfl
@[simp] theorem Raw.clearBuf_draws (s : Raw) : (s.clearBuf).draws = s.draws := rfl

@[simp] theorem Raw.append_cfg (s : Raw) (b : Byte) : (s.append b).cfg = s.cfg := rfl
@[simp] theorem Raw.append_st (s : Raw) (b : Byte) : (s.append b).st = s.st := rfl
@[simp] theorem Raw.append_buf (s : Raw) (b : Byte) : (s.append b).buf = s.buf ++ [b] := rfl
@[simp] theorem Raw.append_slot (s : Raw) (b : Byte) : (s.append b).slot = s.slot := rfl
@[simp] theorem Raw.append_out (s : Raw) (b : Byte) : (s.append b).out = s.out := rfl
@[simp] theorem Raw.append_input (s : Raw) (b : Byte) : (s.append b).input = s.input := rfl
@[simp] theorem Raw.append_draws (s : Raw) (b : Byte) : (s.append b).draws = s.draws := rfl

@[simp] theorem Raw.storePacket_cfg (s : Raw) : (s.storePacket).cfg = s.cfg := rfl
@[simp] theorem Raw.storePacket_st (s : Raw) : (s.storePacket).st = s.st := rfl
@[simp] theorem Raw.storePacket_buf (s : Raw) : (s.storePacket).buf = s.buf := rfl
@[simp] theorem Raw.storePacket_slot (s : Raw) : (s.storePacket).slot = some s.buf := rfl
@[simp] theorem Raw.storePacket_out (s : Raw) : (s.storePacket).out = s.out := rfl
@[simp] theorem Raw.storePacket_input (s : Raw) : (s.storePacket).input = s.input := rfl
@[simp] theorem Raw.storePacket_draws (s : Raw) : (s.storePacket).draws = s.draws := rfl

@[simp] theorem Raw.clearSlot_cfg (s : Raw) : (s.clearSlot).cfg = s.cfg := rfl
@[simp] theorem Raw.clearSlot_st (s : Raw) : (s.clearSlot).st = s.st := rfl
@[simp] theorem Raw.clearSlot_buf (s : Raw) : (s.clearSlot).buf = s.buf := rfl
@[simp] theorem Raw.clearSlot_slot (s : Raw) : (s.clearSlot).slot = none := rfl
@[simp] theorem Raw.clearSlot_out (s : Raw) : (s.clearSlot).out = s.out := rfl
@[simp] theorem Raw.clearSlot_input (s : Raw) : (s.clearSlot).input = s.input := rfl
@[simp] theorem Raw.clearSlot_draws (s : Raw) : (s.clearSlot).draws = s.draws := rfl

@[simp] theorem Raw.raise_cfg (s : Raw) (e : Event) : (s.raise e).cfg = s.cfg := rfl
@[simp] theorem Raw.raise_st (s : Raw) (e : Event) : (s.raise e).st = s.st := rfl
@[simp] theorem Raw.raise_buf (s : Raw) (e : Event) : (s.raise e).buf = s.buf := rfl
@[simp] theorem Raw.raise_slot (s : Raw) (e : Event) : (s.raise e).slot = s.slot := rfl
@[simp] theorem Raw.raise_out (s : Raw) (e : Event) : (s.raise e).out = s.out.raise e := rfl
@[simp] theorem Raw.raise_input (s : Raw) (e : Event) : (s.raise e).input = s.input := rfl
@[simp] theorem Raw.raise_draws (s : Raw) (e : Event) : (s.raise e).draws = s.draws := rfl

@[simp] theorem Raw.resync_cfg (s : Raw) : (s.resync).cfg = s.cfg := rfl
@[simp] theorem Raw.resync_st (s : Raw) : (s.resync).st = .awaitingStart := rfl
@[simp] theorem Raw.resync_buf (s : Raw) : (s.resync).buf = [] := rfl
@[simp] theorem Raw.resync_slot (s : Raw) : (s.resync).slot = s.slot := rfl
@[simp] theorem Raw.resync_out (s : Raw) : (s.resync).out = s.out := rfl
@[simp] theorem Raw.resync_input (s : Raw) : (s.resync).input = s.input := rfl
@[simp] theorem Raw.resync_draws (s : Raw) : (s.resync).draws = s.draws := rfl

@[simp] theorem Raw.rejectFrame_cfg (s : Raw) (e : Event) : (s.rejectFrame e).cfg = s.cfg := rfl
@[simp] theorem Raw.rejectFrame_st (s : Raw) (e : Event) : (s.rejectFrame e).st = .awaitingStart := rfl
@[simp] theorem Raw.rejectFrame_buf (s : Raw) (e : Event) : (s.rejectFrame e).buf = [] := rfl
@[simp] theorem Raw.rejectFrame_slot (s : Raw) (e : Event) : (s.rejectFrame e).slot = s.slot := rfl
@[simp] theorem Raw.rejectFrame_out (s : Raw) (e : Event) : (s.rejectFrame e).out = s.out.raise e := rfl
@[simp] theorem Raw.rejectFrame_input (s : Raw) (e : Event) : (s.rejectFrame e).input = s.input := rfl
@[simp] theorem Raw.rejectFrame_draws (s : Raw) (e : Event) : (s.rejectFrame e).draws = s.draws := rfl

@[simp] theorem Raw.take_cfg (s : Raw) : (s.take).cfg = s.cfg := rfl
@[simp] theorem Raw.take_st (s : Raw) : (s.take).st = s.st := rfl
@[simp] theorem Raw.take_buf (s : Raw) : (s.take).buf = s.buf := rfl
@[simp] theorem Raw.take_slot (s : Raw) : (s.take).slot = none := rfl
@[simp] theorem Raw.take_out (s : Raw) : (s.take).out = { s.out with taken := s.slot } := rfl
@[simp] theorem Raw.take_input (s : Raw) : (s.take).input = s.input := rfl
@[simp] theorem Raw.take_draws (s : Raw) : (s.take).draws = s.draws := rfl

@[simp] theorem State.present_cfg (s : State) (w : CmdWord) : (s.present w).cfg = s.cfg := rfl
@[simp] theorem State.present_st (s : State) (w : CmdWord) : (s.present w).st = s.st := rfl
@[simp] theorem State.present_buf (s : State) (w : CmdWord) : (s.present w).buf = s.buf := rfl
@[simp] theorem State.present_slot (s : State) (w : CmdWord) : (s.present w).slot = s.slot := rfl
@[simp] theorem State.present_out (s : State) (w : CmdWord) : (s.present w).out = s.out := rfl
@[simp] theorem State.present_input (s : State) (w : CmdWord) : (s.present w).input = w :: s.input := rfl
@[simp] theorem State.present_draws (s : State) (w : CmdWord) : (s.present w).draws = s.draws := rfl

@[simp] theorem Raw.raiseDropIfFull_of_none (s : Raw) (h : s.slot = none) : s.raiseDropIfFull = s := by
  simp [Raw.raiseDropIfFull, h]

@[simp] theorem Raw.raiseDropIfFull_cfg (s : Raw) : s.raiseDropIfFull.cfg = s.cfg := by
  unfold Raw.raiseDropIfFull; split <;> rfl

@[simp] theorem Raw.raiseDropIfFull_st (s : Raw) : s.raiseDropIfFull.st = s.st := by
  unfold Raw.raiseDropIfFull; split <;> rfl

@[simp] theorem Raw.raiseDropIfFull_buf (s : Raw) : s.raiseDropIfFull.buf = s.buf := by
  unfold Raw.raiseDropIfFull; split <;> rfl

@[simp] theorem Raw.raiseDropIfFull_slot (s : Raw) : s.raiseDropIfFull.slot = s.slot := by
  unfold Raw.raiseDropIfFull; split <;> rfl

@[simp] theorem Raw.raiseDropIfFull_input (s : Raw) : s.raiseDropIfFull.input = s.input := by
  unfold Raw.raiseDropIfFull; split <;> rfl

@[simp] theorem Raw.raiseDropIfFull_draws (s : Raw) : s.raiseDropIfFull.draws = s.draws := by
  unfold Raw.raiseDropIfFull; split <;> rfl

@[simp] theorem Raw.raiseDropIfFull_out (s : Raw) :
    s.raiseDropIfFull.out = if s.slot.isSome then s.out.raise .drop else s.out := by
  unfold Raw.raiseDropIfFull; split <;> simp_all

@[simp] theorem Out.raise_taken (o : Out) (e : Event) : (o.raise e).taken = o.taken := by cases e <;> rfl
@[simp] theorem Out.raise_sof (o : Out) (e : Event) : (o.raise e).sof = (o.sof || e == .sof) := by
  cases e <;> simp [Out.raise]
@[simp] theorem Out.raise_accept (o : Out) (e : Event) : (o.raise e).accept = (o.accept || e == .accept) := by
  cases e <;> simp [Out.raise]
@[simp] theorem Out.raise_rejEnd (o : Out) (e : Event) : (o.raise e).rejEnd = (o.rejEnd || e == .rejEnd) := by
  cases e <;> simp [Out.raise]
@[simp] theorem Out.raise_rejCsum (o : Out) (e : Event) : (o.raise e).rejCsum = (o.rejCsum || e == .rejCsum) := by
  cases e <;> simp [Out.raise]
@[simp] theorem Out.raise_drop (o : Out) (e : Event) : (o.raise e).drop = (o.drop || e == .drop) := by
  cases e <;> simp [Out.raise]

@[simp] theorem Out.quiet_taken : Out.quiet.taken = none := rfl
@[simp] theorem Out.quiet_sof : Out.quiet.sof = false := rfl
@[simp] theorem Out.quiet_accept : Out.quiet.accept = false := rfl
@[simp] theorem Out.quiet_rejEnd : Out.quiet.rejEnd = false := rfl
@[simp] theorem Out.quiet_rejCsum : Out.quiet.rejCsum = false := rfl
@[simp] theorem Out.quiet_drop : Out.quiet.drop = false := rfl

@[simp] theorem State.present_toRaw (s : State) (w : CmdWord) :
    (s.present w).toRaw = { s.toRaw with input := w :: s.input } := rfl

@[simp] theorem State.resetOf_cfg (cfg : Config) : (State.resetOf cfg).cfg = cfg := rfl
@[simp] theorem State.resetOf_st (cfg : Config) : (State.resetOf cfg).st = .awaitingStart := rfl
@[simp] theorem State.resetOf_buf (cfg : Config) : (State.resetOf cfg).buf = [] := rfl
@[simp] theorem State.resetOf_slot (cfg : Config) : (State.resetOf cfg).slot = none := rfl
@[simp] theorem State.resetOf_out (cfg : Config) : (State.resetOf cfg).out = Out.quiet := rfl
@[simp] theorem State.resetOf_input (cfg : Config) : (State.resetOf cfg).input = [] := rfl
@[simp] theorem State.resetOf_draws (cfg : Config) : (State.resetOf cfg).draws = 0 := rfl

end Sys2Proof.Machine
end

