-- ==== Sys2Proof/Laws/Ops.lean ====
section
/-! SUPPORT. One lemma per shared operation that says all it can do; proofs cite these instead of unfolding the operation. -/

namespace Sys2Proof.Machine

/-! ### What a step reads -/

theorem Raw.select_awaitingStart (s : Raw) (b : Byte) (h : s.st = .awaitingStart) :
    s.select b = if b = s.cfg.start then .T1 else .T2 := by
  by_cases hb : b = s.cfg.start <;> simp [Raw.select, Raw.comparator, decodeRow, SeqState.code, h, hb]

theorem Raw.select_receiving (s : Raw) (b : Byte) (h : s.st = .receiving) :
    s.select b = if s.buf.length + 1 = s.cfg.n then .T4 else .T3 := by
  by_cases hb : s.buf.length + 1 = s.cfg.n <;>
    simp [Raw.select, Raw.comparator, decodeRow, SeqState.code, Raw.len, h, hb]

theorem Raw.select_awaitingEnd (s : Raw) (b : Byte) (h : s.st = .awaitingEnd) :
    s.select b = if b = s.cfg.stop then .T5 else .T6 := by
  by_cases hb : b = s.cfg.stop <;> simp [Raw.select, Raw.comparator, decodeRow, SeqState.code, h, hb]

theorem Raw.select_awaitingChecksum (s : Raw) (b : Byte) (h : s.st = .awaitingChecksum) :
    s.select b = if b = xorFold s.buf then .T7a else .T7b := by
  by_cases hb : b = xorFold s.buf <;> simp [Raw.select, Raw.comparator, decodeRow, SeqState.code, h, hb]

/-- The selector reads `cfg`, `st` and `buf` only. -/
theorem Raw.select_congr {s t : Raw} (hc : s.cfg = t.cfg) (hs : s.st = t.st) (hb : s.buf = t.buf) (b : Byte) :
    s.select b = t.select b := by
  simp [Raw.select, Raw.comparator, Raw.len, hc, hs, hb]

@[simp] theorem Raw.fresh_select (s : Raw) (b : Byte) : s.fresh.select b = s.select b := rfl
@[simp] theorem Raw.take_select (s : Raw) (b : Byte) : s.take.select b = s.select b := rfl

/-- INV as its two parts. -/
theorem Raw.inv_iff (s : Raw) : s.Inv ↔ s.lenLegal = true ∧ s.slotLegal = true := by
  simp [Raw.Inv, Raw.inv]

/-- The part of INV about `st` and `len`, state by state. -/
theorem Raw.lenLegal_iff (s : Raw) : s.lenLegal = true ↔
    (s.st = .awaitingStart → s.buf = []) ∧ (s.st = .receiving → s.buf.length + 1 ≤ s.cfg.n) ∧
    (s.st = .awaitingEnd → s.buf.length = s.cfg.n) ∧ (s.st = .awaitingChecksum → s.buf.length = s.cfg.n) := by
  unfold Raw.lenLegal
  cases hs : s.st <;> simp [Raw.len]

/-- The part of INV about `slot`. -/
theorem Raw.slotLegal_iff (s : Raw) : s.slotLegal = true ↔ ∀ p, s.slot = some p → p.length = s.cfg.n := by
  unfold Raw.slotLegal
  cases hs : s.slot <;> simp

@[simp] theorem Raw.fresh_inv (s : Raw) : s.fresh.inv = s.inv := rfl

/-- A take keeps INV. -/
theorem Raw.take_inv {s : Raw} (h : s.Inv) : s.take.Inv := by
  rw [Raw.inv_iff] at h ⊢
  exact ⟨h.1, rfl⟩

/-! ### Contents that are a state -/

/-- Two states with the same contents are one. -/
theorem State.eq_of_toRaw {s t : State} (h : s.toRaw = t.toRaw) : s = t := by
  cases s; cases t; cases h; rfl

theorem State.ofRaw_of_inv {r : Raw} (h : r.Inv) : State.ofRaw r = .next { r with legal := h } := dif_pos h

theorem State.ofRaw_of_not_inv {r : Raw} (h : ¬ r.Inv) : State.ofRaw r = .refused .outsideInvariant := dif_neg h

/-- The contents of a state are that state. -/
@[simp] theorem State.ofRaw_toRaw (s : State) : State.ofRaw s.toRaw = .next s := State.ofRaw_of_inv s.legal

/-- All that `ofRaw` can do when it answers a next state. -/
theorem State.ofRaw_eq_next {r : Raw} {t : State} : State.ofRaw r = .next t ↔ t.toRaw = r := by
  constructor
  · intro h
    by_cases hi : r.Inv
    · rw [State.ofRaw_of_inv hi] at h; cases h; rfl
    · rw [State.ofRaw_of_not_inv hi] at h; cases h
  · rintro rfl; exact State.ofRaw_toRaw t

/-- All that `performRow` can do when it answers a next state. -/
theorem State.performRow_eq_next {s t : State} {r : Row} {b : Byte} {effect : Raw → Raw} :
    s.performRow r b effect = .next t ↔ s.select b = r ∧ t.toRaw = effect s.fresh := by
  unfold State.performRow
  by_cases h : s.select b = r
  · simp [h, State.ofRaw_eq_next]
  · simp [h]

/-! ### The meanings, once -/

theorem exec_rst (s : State) : exec .rst s = State.ofRaw s.fresh.resync.clearSlot := (State.ofRaw_of_inv rfl).symm

theorem exec_nop (s : State) : exec .nop s = State.ofRaw s.fresh := rfl

theorem exec_t (s : State) : exec .t s = State.ofRaw s.fresh.take := rfl

theorem exec_p (s : State) (b : Byte) : exec (.p b) s = State.ofRaw (s.fresh.process b) := rfl

theorem exec_pt (s : State) (b : Byte) : exec (.pt b) s = State.ofRaw (s.fresh.take.process b) := rfl

/-- All that a row taken on its own can do. -/
theorem exec_row (r : Row) (b : Byte) (s : State) :
    exec (r.instr b) s = s.performRow r b (fun u => u.applyRow r b) := by
  cases r <;> rfl

theorem exec_row_of_selected {s : State} {b : Byte} {r : Row} (hr : s.select b = r) :
    exec (r.instr b) s = State.ofRaw (s.fresh.process b) := by
  rw [exec_row, State.performRow, if_pos hr, Raw.process, Raw.fresh_select, hr]

theorem exec_row_of_not_selected {s : State} {b : Byte} {r : Row} (hr : s.select b ≠ r) :
    exec (r.instr b) s = .refused .rowNotSelected := by
  rw [exec_row, State.performRow, if_neg hr]

/-- All that an instruction can do when it answers a next state: its effect on the contents, the output record started afresh. -/
theorem exec_next_cases {i : Instr} {s t : State} (h : exec i s = .next t) :
    (i = .rst ∧ t.toRaw = s.fresh.resync.clearSlot) ∨
    (i = .nop ∧ t.toRaw = s.fresh) ∨
    (i = .t ∧ t.toRaw = s.fresh.take) ∨
    (∃ b, i = .pt b ∧ t.toRaw = s.fresh.take.process b) ∨
    (∃ b, (i = .p b ∨ i = (s.select b).instr b) ∧ t.toRaw = s.fresh.process b) := by
  have row : ∀ (r : Row) (b : Byte), i = r.instr b →
      ∃ b, (i = .p b ∨ i = (s.select b).instr b) ∧ t.toRaw = s.fresh.process b := by
    intro r b hi
    rw [hi, exec_row, State.performRow_eq_next] at h
    obtain ⟨hr, ht⟩ := h
    exact ⟨b, .inr (by rw [hr, hi]), by rw [ht, Raw.process, Raw.fresh_select, hr]⟩
  cases i with
  | rst => exact .inl ⟨rfl, by cases h; rfl⟩
  | nop => exact .inr (.inl ⟨rfl, State.ofRaw_eq_next.mp h⟩)
  | t => exact .inr (.inr (.inl ⟨rfl, State.ofRaw_eq_next.mp h⟩))
  | pt b => exact .inr (.inr (.inr (.inl ⟨b, rfl, State.ofRaw_eq_next.mp h⟩)))
  | p b => exact .inr (.inr (.inr (.inr ⟨b, .inl rfl, State.ofRaw_eq_next.mp h⟩)))
  | t1 b => exact .inr (.inr (.inr (.inr (row .T1 b rfl))))
  | t2 b => exact .inr (.inr (.inr (.inr (row .T2 b rfl))))
  | t3 b => exact .inr (.inr (.inr (.inr (row .T3 b rfl))))
  | t4 b => exact .inr (.inr (.inr (.inr (row .T4 b rfl))))
  | t5 b => exact .inr (.inr (.inr (.inr (row .T5 b rfl))))
  | t6 b => exact .inr (.inr (.inr (.inr (row .T6 b rfl))))
  | t7a b => exact .inr (.inr (.inr (.inr (row .T7a b rfl))))
  | t7b b => exact .inr (.inr (.inr (.inr (row .T7b b rfl))))

/-! ### Effects of a row: the fields every row leaves alone -/

@[simp] theorem Raw.applyRow_cfg (s : Raw) (r : Row) (b : Byte) : (s.applyRow r b).cfg = s.cfg := by
  cases r <;> simp [Raw.applyRow, Raw.startOfFrame, Raw.hunt, Raw.accumulate, Raw.completePayload, Raw.endFound,
    Raw.rejectEnd, Raw.acceptFrame, Raw.rejectChecksum]

@[simp] theorem Raw.applyRow_input (s : Raw) (r : Row) (b : Byte) : (s.applyRow r b).input = s.input := by
  cases r <;> simp [Raw.applyRow, Raw.startOfFrame, Raw.hunt, Raw.accumulate, Raw.completePayload, Raw.endFound,
    Raw.rejectEnd, Raw.acceptFrame, Raw.rejectChecksum]

@[simp] theorem Raw.applyRow_draws (s : Raw) (r : Row) (b : Byte) : (s.applyRow r b).draws = s.draws := by
  cases r <;> simp [Raw.applyRow, Raw.startOfFrame, Raw.hunt, Raw.accumulate, Raw.completePayload, Raw.endFound,
    Raw.rejectEnd, Raw.acceptFrame, Raw.rejectChecksum]

/-- No row changes `taken`: the take half of `PT` has written it already (41_take.md R133). -/
@[simp] theorem Raw.applyRow_taken (s : Raw) (r : Row) (b : Byte) : (s.applyRow r b).out.taken = s.out.taken := by
  cases r <;> simp [Raw.applyRow, Raw.startOfFrame, Raw.hunt, Raw.accumulate, Raw.completePayload, Raw.endFound,
    Raw.rejectEnd, Raw.acceptFrame, Raw.rejectChecksum] <;> split <;> simp

/-! ### `process`, state by state -/

theorem Raw.process_awaitingStart (s : Raw) (b : Byte) (h : s.st = .awaitingStart) :
    s.process b =
      if b = s.cfg.start then { s with st := .receiving, buf := [], out := s.out.raise .sof } else s := by
  rw [Raw.process, Raw.select_awaitingStart s b h]
  split <;> rfl

theorem Raw.process_receiving (s : Raw) (b : Byte) (h : s.st = .receiving) :
    s.process b =
      { s with buf := s.buf ++ [b], st := if s.buf.length + 1 = s.cfg.n then .awaitingEnd else .receiving } := by
  rw [Raw.process, Raw.select_receiving s b h]
  split <;> rfl

theorem Raw.process_awaitingEnd (s : Raw) (b : Byte) (h : s.st = .awaitingEnd) :
    s.process b =
      if b = s.cfg.stop then { s with st := .awaitingChecksum }
      else { s with st := .awaitingStart, buf := [], out := s.out.raise .rejEnd } := by
  rw [Raw.process, Raw.select_awaitingEnd s b h]
  split <;> rfl

theorem Raw.process_awaitingChecksum (s : Raw) (b : Byte) (h : s.st = .awaitingChecksum) :
    s.process b =
      { s with
        st := .awaitingStart
        buf := []
        slot := if b = xorFold s.buf then some s.buf else none
        out := (if s.slot.isSome then s.out.raise .drop else s.out).raise
          (if b = xorFold s.buf then .accept else .rejCsum) } := by
  rw [Raw.process, Raw.select_awaitingChecksum s b h]
  by_cases hb : b = xorFold s.buf <;> cases hs : s.slot <;>
    simp [hb, hs, Raw.applyRow, Raw.acceptFrame, Raw.rejectChecksum, Raw.raiseDropIfFull, Raw.storePacket,
      Raw.clearSlot, Raw.rejectFrame, Raw.resync, Raw.clearBuf, Raw.setSt, Raw.raise]

@[simp] theorem Raw.process_cfg (s : Raw) (b : Byte) : (s.process b).cfg = s.cfg := Raw.applyRow_cfg _ _ _
@[simp] theorem Raw.process_input (s : Raw) (b : Byte) : (s.process b).input = s.input := Raw.applyRow_input _ _ _
@[simp] theorem Raw.process_draws (s : Raw) (b : Byte) : (s.process b).draws = s.draws := Raw.applyRow_draws _ _ _
@[simp] theorem Raw.process_taken (s : Raw) (b : Byte) : (s.process b).out.taken = s.out.taken :=
  Raw.applyRow_taken _ _ _

/-! ### Fetch and placing -/

theorem State.fetch_nil {s : State} (h : s.input = []) :
    s.fetch = (0x000#11, { s with draws := s.draws + 1, legal := s.legal }) := by
  unfold State.fetch; rw [h]

theorem State.fetch_cons {s : State} {w : CmdWord} {ws : List CmdWord} (h : s.input = w :: ws) :
    s.fetch = (w, { s with input := ws, draws := s.draws + 1, legal := s.legal }) := by
  unfold State.fetch; rw [h]

theorem State.place_of_inv {s : State} {r : Raw} (h : r.Inv) : s.place r = { r with legal := h } := dif_pos h

end Sys2Proof.Machine
end

