-- ==== Sys2Proof/Laws/PerInstr.lean ====
section
/-! SUPPORT. Per instruction: the encoder's word carries the bits that spec/opcode_table.json fixes for the instruction's row. -/

namespace Sys2Proof.Laws.TableBits

/-- A row matches a word when `(word & mask) == match` (30_encoding.md R76). -/
def Statement (i : Instr) : Prop := (encode i).word &&& tableMask i = tableMatch i

theorem rst : Statement .rst := by unfold Statement; decide
theorem nop : Statement .nop := by unfold Statement; decide
theorem p (b : Byte) : Statement (.p b) := by unfold Statement; revert b; decide +kernel
theorem t : Statement .t := by unfold Statement; decide
theorem pt (b : Byte) : Statement (.pt b) := by unfold Statement; revert b; decide +kernel
theorem t1 (b : Byte) : Statement (.t1 b) := by unfold Statement; revert b; decide +kernel
theorem t2 (b : Byte) : Statement (.t2 b) := by unfold Statement; revert b; decide +kernel
theorem t3 (b : Byte) : Statement (.t3 b) := by unfold Statement; revert b; decide +kernel
theorem t4 (b : Byte) : Statement (.t4 b) := by unfold Statement; revert b; decide +kernel
theorem t5 (b : Byte) : Statement (.t5 b) := by unfold Statement; revert b; decide +kernel
theorem t6 (b : Byte) : Statement (.t6 b) := by unfold Statement; revert b; decide +kernel
theorem t7a (b : Byte) : Statement (.t7a b) := by unfold Statement; revert b; decide +kernel
theorem t7b (b : Byte) : Statement (.t7b b) := by unfold Statement; revert b; decide +kernel

end Sys2Proof.Laws.TableBits
end

