-- ==== Sys2Proof/Laws/Runs.lean ====
section
/-! SUPPORT. Runs of commands, one command at a time and joined (20_memory.md R58), results, the exit of RelayLoop, and the checksum of
a cons. -/

namespace Sys2Proof.Machine

theorem runCommands_cons {i : Instr} {s t : State} (h : exec i s = .next t) (is : List Instr) :
    runCommands (i :: is) s = runCommands is t := by
  simp [runCommands, h]

theorem trace_cons {i : Instr} {s t : State} (h : exec i s = .next t) (is : List Instr) :
    trace (i :: is) s = t :: trace is t := by
  simp [trace, h]

theorem runCommands_append {is js : List Instr} {s t : State} (h : runCommands is s = .next t) :
    runCommands (is ++ js) s = runCommands js t := by
  induction is generalizing s with
  | nil => cases h; rfl
  | cons i is ih =>
    simp only [runCommands, List.cons_append] at h ⊢
    cases hx : exec i s with
    | next u => rw [hx] at h; exact ih h
    | fault f => cases f
    | refused e => rw [hx] at h; cases h

theorem trace_append {is js : List Instr} {s t : State} (h : runCommands is s = .next t) :
    trace (is ++ js) s = trace is s ++ trace js t := by
  induction is generalizing s with
  | nil => cases h; rfl
  | cons i is ih =>
    simp only [runCommands, trace, List.cons_append] at h ⊢
    cases hx : exec i s with
    | next u => rw [hx] at h; simp [ih h]
    | fault f => cases f
    | refused e => rw [hx] at h; cases h

/-- Contents that meet INV complete as they are. -/
theorem completes_ofRaw {r : Raw} (h : r.Inv) : Completes (State.ofRaw r) r := ⟨_, State.ofRaw_of_inv h, rfl⟩

@[simp] theorem Relay.exit_block (why : LoopStatus) (r : Relay) : (r.exit why).block = r.block := rfl
@[simp] theorem Relay.exit_published (why : LoopStatus) (r : Relay) : (r.exit why).published = r.published := rfl
@[simp] theorem Relay.exit_failed (why : LoopStatus) (r : Relay) : (r.exit why).failed = r.failed := rfl
@[simp] theorem Relay.exit_diagnosed (why : LoopStatus) (r : Relay) : (r.exit why).diagnosed = r.diagnosed := rfl
@[simp] theorem Relay.exit_transport (why : LoopStatus) (r : Relay) : (r.exit why).transport = .released := rfl
@[simp] theorem Relay.exit_bus (why : LoopStatus) (r : Relay) : (r.exit why).bus = .released := rfl
@[simp] theorem Relay.exit_status (why : LoopStatus) (r : Relay) : (r.exit why).status = why := rfl

/-- A loop that has ended does nothing more. -/
theorem Relay.iterate_of_ended {r : Relay} (h : r.status ≠ .running) (policy : PublishPolicy) (it : Iteration) :
    r.iterate policy it = .next r := by
  unfold Relay.iterate
  cases hs : r.status <;> simp_all

/-- Each iteration of the driver runs before the rest. -/
theorem driverIterations_cons (read : Option Byte) (reads : List (Option Byte)) :
    driverIterations (read :: reads) = iterationCommands read ++ driverIterations reads := rfl

theorem foldl_xor_start (p : Packet) (a : Byte) : p.foldl (fun acc b => acc ^^^ b) a = a ^^^ xorFold p := by
  induction p generalizing a with
  | nil => simp [xorFold]
  | cons b p ih => simp only [xorFold, List.foldl_cons]; rw [ih, ih (0x00#8 ^^^ b)]; simp [BitVec.xor_assoc]

theorem xorFold_cons (b : Byte) (p : Packet) : xorFold (b :: p) = b ^^^ xorFold p := by
  show List.foldl _ _ p = _; rw [foldl_xor_start]; simp

end Sys2Proof.Machine
end

