-- ==== Sys2Proof/Tests/Slice0.lean ====
section
/-! SUPPORT. Tests: well-formedness refuses ill-formed terms, written-out words decode, vectors of 95_test_vectors.md hold for one step,
and each statement's hypotheses are met by a concrete state (the witnesses). -/

namespace Sys2Proof.Tests

open Sys2Proof.Machine

/-- `cfg = (START 0xFF, END 0xEE, N 3)`, the configuration of 95_test_vectors.md, and the same with N = 1 and N = 2. -/
def cfg3 : Config := { start := 0xFF#8, stop := 0xEE#8, n := 3, n_pos := by decide }
def cfg1 : Config := { start := 0xFF#8, stop := 0xEE#8, n := 1, n_pos := by decide }

/-- The triple `(st, buf, slot)` under `cfg3`, a state or not. -/
def raw3 (st : SeqState) (buf : Packet) (slot : Option Packet) : Raw :=
  { (State.resetOf cfg3).toRaw with st := st, buf := buf, slot := slot }

/-- The state `(st, buf, slot)` under `cfg3`, for a triple that meets INV. -/
def at3 (st : SeqState) (buf : Packet) (slot : Option Packet) : State := (State.resetOf cfg3).place (raw3 st buf slot)

/-- What a vector's line shows: the state after, `taken` and `ev`. -/
def view (o : Host.Outcome State Fault Refusal) : Option (SeqState × Packet × Option Packet × Option Packet × BitVec 5) :=
  match o with
  | .next t => some (t.st, t.buf, t.slot, t.out.taken, t.evPort)
  | .fault _ => none
  | .refused _ => none

/-- The refusal an outcome ends in. -/
def refusal (o : Host.Outcome State Fault Refusal) : Option Refusal :=
  match o with
  | .next _ => none
  | .fault _ => none
  | .refused r => some r

/-! ### Well-formedness (R79, R104, R151) -/

theorem test_wellFormed_refuses_t1 : ¬ (Instr.t1 0x00#8).WellFormed cfg3 := by decide
theorem test_wellFormed_refuses_t2 : ¬ (Instr.t2 0xFF#8).WellFormed cfg3 := by decide
theorem test_wellFormed_refuses_t3 : ¬ (Instr.t3 0x00#8).WellFormed cfg1 := by decide
theorem test_wellFormed_refuses_t5 : ¬ (Instr.t5 0xFF#8).WellFormed cfg3 := by decide
theorem test_wellFormed_refuses_t6 : ¬ (Instr.t6 0xEE#8).WellFormed cfg3 := by decide
theorem test_construct_refuses_zero : refusal (construct 0xFF#8 0xEE#8 0) = some .zeroPayloadLength := by decide

/-! ### Decoding. Command words of V12 to V13g; transition words bit by bit: `eq`, `b[7:0]`, the table's `st[1:0]`. -/

theorem test_decode_nop : decodeTableWord 16 0b000_00000000 = some .nop := by decide
theorem test_decode_nop_ignores_data : decodeTableWord 16 0b000_10101011 = some .nop := by decide
theorem test_decode_p : decodeTableWord 16 0b001_11111111 = some (.p 0xFF#8) := by decide
theorem test_decode_t : decodeTableWord 16 0b010_11101110 = some .t := by decide
theorem test_decode_pt : decodeTableWord 16 0b011_11011101 = some (.pt 0xDD#8) := by decide
theorem test_decode_rst : decodeTableWord 16 0b100_00000000 = some .rst := by decide
theorem test_decode_rst_ignores_rest : decodeTableWord 16 0b111_11111111 = some .rst := by decide
theorem test_decode_too_wide : decodeTableWord 16 0x800 = none := by decide
theorem test_decode_t1 : decodeTransition 0b1_11111111_00#11 = .t1 0xFF#8 := by decide
theorem test_decode_t2 : decodeTransition 0b0_11101110_00#11 = .t2 0xEE#8 := by decide
theorem test_decode_t3 : decodeTransition 0b0_00000001_01#11 = .t3 0x01#8 := by decide
theorem test_decode_t4 : decodeTransition 0b1_00000011_01#11 = .t4 0x03#8 := by decide
theorem test_decode_t5 : decodeTransition 0b1_11101110_10#11 = .t5 0xEE#8 := by decide
theorem test_decode_t6 : decodeTransition 0b0_11111111_10#11 = .t6 0xFF#8 := by decide
theorem test_decode_t7a : decodeTransition 0b1_11011101_11#11 = .t7a 0xDD#8 := by decide
theorem test_decode_t7b : decodeTransition 0b0_11011100_11#11 = .t7b 0xDC#8 := by decide
theorem test_decode_table_trans : decodeTableWord 8 0b10 = some (.t6 0x00#8) := by decide

/-! ### Vectors of 95_test_vectors.md, one step each -/

/-- V21: T1 keeps a pending packet. -/
theorem test_t1_V21 : view (exec (.t1 0xFF#8) (at3 .awaitingStart [] (some [0x09#8, 0x09#8, 0x09#8]))) =
    some (.receiving, [], some [0x09#8, 0x09#8, 0x09#8], none, 0b00001#5) := by decide
/-- V23: a byte equal to END is discarded while hunting. -/
theorem test_t2_V23 : view (exec (.t2 0xEE#8) (at3 .awaitingStart [] none)) =
    some (.awaitingStart, [], none, none, 0b00000#5) := by decide
/-- V27: T3 stores a byte equal to END. -/
theorem test_t3_V27 : view (exec (.t3 0xEE#8) (at3 .receiving [0x01#8] none)) =
    some (.receiving, [0x01#8, 0xEE#8], none, none, 0b00000#5) := by decide
/-- V28: payload complete. -/
theorem test_t4_V28 : view (exec (.t4 0x03#8) (at3 .receiving [0x01#8, 0x02#8] none)) =
    some (.awaitingEnd, [0x01#8, 0x02#8, 0x03#8], none, none, 0b00000#5) := by decide
/-- V31: T5 with a packet pending. -/
theorem test_t5_V31 : view (exec (.t5 0xEE#8) (at3 .awaitingEnd [0x04#8, 0x05#8, 0x06#8] (some [0x01#8, 0x02#8, 0x03#8]))) =
    some (.awaitingChecksum, [0x04#8, 0x05#8, 0x06#8], some [0x01#8, 0x02#8, 0x03#8], none, 0b00000#5) := by decide
/-- V33: a wrong END equal to START is not a new START. -/
theorem test_t6_V33 : view (exec (.t6 0xFF#8) (at3 .awaitingEnd [0x01#8, 0x02#8, 0x03#8] none)) =
    some (.awaitingStart, [], none, none, 0b00100#5) := by decide
/-- V34: T6 keeps a pending packet, no Drop. -/
theorem test_t6_V34 : view (exec (.t6 0x00#8) (at3 .awaitingEnd [0x04#8, 0x05#8, 0x06#8] (some [0x01#8, 0x02#8, 0x03#8]))) =
    some (.awaitingStart, [], some [0x01#8, 0x02#8, 0x03#8], none, 0b00100#5) := by decide
/-- V37: accept over a pending packet, Drop. -/
theorem test_t7a_V37 : view (exec (.t7a 0xDD#8) (at3 .awaitingChecksum [0xAA#8, 0xBB#8, 0xCC#8] (some [0x01#8, 0x02#8, 0x03#8]))) =
    some (.awaitingStart, [], some [0xAA#8, 0xBB#8, 0xCC#8], none, 0b10010#5) := by decide
/-- V38: a checksum byte equal to START still ends in AwaitingStart. -/
theorem test_t7a_V38 : view (exec (.t7a 0xFF#8) (at3 .awaitingChecksum [0xFF#8, 0x00#8, 0x00#8] none)) =
    some (.awaitingStart, [], some [0xFF#8, 0x00#8, 0x00#8], none, 0b00010#5) := by decide
/-- V40: mismatch by one bit. -/
theorem test_t7b_V40 : view (exec (.t7b 0xDC#8) (at3 .awaitingChecksum [0xAA#8, 0xBB#8, 0xCC#8] none)) =
    some (.awaitingStart, [], none, none, 0b01000#5) := by decide
/-- V41: a mismatch clears a pending packet, Drop. -/
theorem test_t7b_V41 : view (exec (.t7b 0xDC#8) (at3 .awaitingChecksum [0xAA#8, 0xBB#8, 0xCC#8] (some [0x01#8, 0x02#8, 0x03#8]))) =
    some (.awaitingStart, [], none, none, 0b11000#5) := by decide
/-- V35 and V42, as commands. -/
theorem test_p_V35 : view (exec (.p 0x00#8) (at3 .awaitingChecksum [0x01#8, 0x02#8, 0x03#8] none)) =
    some (.awaitingStart, [], some [0x01#8, 0x02#8, 0x03#8], none, 0b00010#5) := by decide
theorem test_p_V42 : view (exec (.p 0xFF#8) (at3 .awaitingChecksum [0x01#8, 0x02#8, 0x03#8] none)) =
    some (.awaitingStart, [], none, none, 0b01000#5) := by decide
/-- V52: T in mid-frame. -/
theorem test_t_V52 : view (exec .t (at3 .receiving [0x01#8] (some [0x09#8, 0x09#8, 0x09#8]))) =
    some (.receiving, [0x01#8], none, some [0x09#8, 0x09#8, 0x09#8], 0b00000#5) := by decide
/-- V54: NOP in mid-frame. -/
theorem test_nop_V54 : view (exec .nop (at3 .awaitingEnd [0x01#8, 0x02#8, 0x03#8] (some [0x09#8, 0x09#8, 0x09#8]))) =
    some (.awaitingEnd, [0x01#8, 0x02#8, 0x03#8], some [0x09#8, 0x09#8, 0x09#8], none, 0b00000#5) := by decide
/-- V56: take the old packet, accept the new one, no Drop. -/
theorem test_pt_V56 : view (exec (.pt 0xDD#8) (at3 .awaitingChecksum [0xAA#8, 0xBB#8, 0xCC#8] (some [0x01#8, 0x02#8, 0x03#8]))) =
    some (.awaitingStart, [], some [0xAA#8, 0xBB#8, 0xCC#8], some [0x01#8, 0x02#8, 0x03#8], 0b00010#5) := by decide
/-- V58: take the old packet, mismatch, no Drop. -/
theorem test_pt_V58 : view (exec (.pt 0xDC#8) (at3 .awaitingChecksum [0xAA#8, 0xBB#8, 0xCC#8] (some [0x01#8, 0x02#8, 0x03#8]))) =
    some (.awaitingStart, [], none, some [0x01#8, 0x02#8, 0x03#8], 0b01000#5) := by decide
/-- V62, and V19 through its word 0x7FF: the packet is destroyed, not delivered. -/
theorem test_rst_V62 : view (exec .rst (at3 .awaitingEnd [0x01#8, 0x02#8, 0x03#8] (some [0x09#8, 0x09#8, 0x09#8]))) =
    some (.awaitingStart, [], none, none, 0b00000#5) := by decide
theorem test_rst_V19 : view (step ((at3 .awaitingChecksum [0x01#8, 0x02#8, 0x03#8] (some [0x09#8, 0x09#8, 0x09#8])).present
    0x7FF#11)) = some (.awaitingStart, [], none, none, 0b00000#5) := by decide
/-- V9, V4: the checksum; the 160 bytes `(7*i + 1) mod 256`. -/
theorem test_xorFold_V9 : xorFold ((List.range 160).map (fun i => BitVec.ofNat 8 (7 * i + 1))) = 0x80#8 := by decide +kernel
theorem test_xorFold_V4 : xorFold [0xFF#8, 0xEE#8, 0xFF#8] = 0xEE#8 := by decide
/-- G1, the port view after step 8: `pkt_data = 0x030201`. -/
theorem test_pktData_G1 : (at3 .awaitingStart [] (some [0x01#8, 0x02#8, 0x03#8])).pktData.toNat = 0x030201 := by decide
/-- A row that the selector does not select is refused by name; a triple outside INV is refused by name. -/
theorem test_row_not_selected : refusal (exec (.t1 0x00#8) (at3 .awaitingStart [] none)) = some .rowNotSelected := by decide
theorem test_outside_invariant : refusal (State.ofRaw (raw3 .awaitingStart [0x00#8] none)) = some .outsideInvariant := by decide
/-- From reset, a staged table word runs in the very next step (assumption 15). -/
theorem test_stage_command : view (step (State.reset.withFetchWord 16 0x1FF)) = some (.receiving, [], none, none, 0b00001#5) := by
  decide
theorem test_stage_row : (view (step (State.reset.withFetchWord 8 0b11))).map (fun v => (v.1, v.2.2.2.2)) =
    some (.awaitingStart, 0b01000#5) := by decide +kernel

/-! ### Witnesses: each statement's hypotheses are met together -/

/-- `at3` is the triple it is given, in each value of `st`; triples outside INV are no state. -/
theorem test_at3 :
    (at3 .receiving [0x01#8, 0x02#8] (some [0x09#8, 0x09#8, 0x09#8])).toRaw =
      raw3 .receiving [0x01#8, 0x02#8] (some [0x09#8, 0x09#8, 0x09#8]) ∧
    (at3 .awaitingEnd [0x01#8, 0x02#8, 0x03#8] none).toRaw = raw3 .awaitingEnd [0x01#8, 0x02#8, 0x03#8] none ∧
    (at3 .awaitingChecksum [0x01#8, 0x02#8, 0x03#8] none).toRaw = raw3 .awaitingChecksum [0x01#8, 0x02#8, 0x03#8] none := by
  decide
theorem test_not_inv : ¬ (raw3 .receiving [0x01#8, 0x02#8, 0x03#8] none).Inv ∧
    ¬ (raw3 .awaitingStart [] (some [0x01#8])).Inv ∧ ¬ (raw3 .awaitingEnd [0x01#8] none).Inv := by decide
theorem test_witness_StepRunsTheDecodedCommand : ((at3 .awaitingStart [] none).present 0x1FF#11).input = 0x1FF#11 :: [] ∧
    (at3 .awaitingStart [] none).input = [] := by decide
theorem test_witness_StagedInstructionRunsNext : (0 : Nat) < 2048 ∧ 2047 < 2048 ∧
    (Row.T1.instr 0xFF#8).WellFormed cfg3 ∧ (Row.T2.instr 0x00#8).WellFormed cfg3 ∧ (Row.T3.instr 0x00#8).WellFormed cfg3 ∧
    (Row.T4.instr 0x00#8).WellFormed cfg3 ∧ (Row.T5.instr 0xEE#8).WellFormed cfg3 ∧ (Row.T6.instr 0x00#8).WellFormed cfg3 ∧
    (Row.T7a.instr 0x00#8).WellFormed cfg3 ∧ (Row.T7b.instr 0x00#8).WellFormed cfg3 := by decide
theorem test_witness_ProcessPerformsTheSelectedRow : Row.T2 ≠ (at3 .awaitingStart [] none).select 0xFF#8 := by decide
theorem test_witness_SelectorFollowsTheTransitionTable : (at3 .receiving [0x01#8] none).select 0xFF#8 = .T3 ∧
    (at3 .receiving [0x01#8, 0x02#8] none).select 0xFF#8 = .T4 ∧ (at3 .awaitingStart [] none).select 0xFE#8 = .T2 ∧
    (at3 .awaitingEnd [0x01#8, 0x02#8, 0x03#8] none).select 0xEE#8 = .T5 ∧
    (at3 .awaitingEnd [0x01#8, 0x02#8, 0x03#8] none).select 0xEF#8 = .T6 ∧
    (at3 .awaitingChecksum [0x01#8, 0x02#8, 0x03#8] none).select 0x00#8 = .T7a ∧
    (at3 .awaitingChecksum [0x01#8, 0x02#8, 0x03#8] none).select 0x01#8 = .T7b := by decide
theorem test_witness_StartOfFrameResult : (at3 .awaitingStart [] none).st = .awaitingStart ∧
    0xFF#8 = (at3 .awaitingStart [] none).cfg.start := by decide
theorem test_witness_HuntResult : (at3 .awaitingStart [] none).st = .awaitingStart ∧
    0xFE#8 ≠ (at3 .awaitingStart [] none).cfg.start := by decide
theorem test_witness_AccumulateResult : (at3 .receiving [0x01#8] none).st = .receiving ∧
    (at3 .receiving [0x01#8] none).buf.length + 1 < (at3 .receiving [0x01#8] none).cfg.n ∧
    (State.resetOf cfg1).cfg.n = 1 := by decide
theorem test_witness_PayloadCompleteResult : (at3 .receiving [0x01#8, 0x02#8] none).st = .receiving ∧
    (at3 .receiving [0x01#8, 0x02#8] none).buf.length + 1 = (at3 .receiving [0x01#8, 0x02#8] none).cfg.n ∧
    (at3 .awaitingStart [] none).st = .awaitingStart ∧ [0xFF#8, 0xEE#8, 0xFF#8].length = (at3 .awaitingStart [] none).cfg.n := by
  decide
theorem test_witness_EndFoundResult : (at3 .awaitingEnd [0x01#8, 0x02#8, 0x03#8] none).st = .awaitingEnd ∧
    0xEE#8 = (at3 .awaitingEnd [0x01#8, 0x02#8, 0x03#8] none).cfg.stop := by decide
theorem test_witness_EndRejectionResult : (at3 .awaitingEnd [0x01#8, 0x02#8, 0x03#8] none).st = .awaitingEnd ∧
    0xEF#8 ≠ (at3 .awaitingEnd [0x01#8, 0x02#8, 0x03#8] none).cfg.stop := by decide
theorem test_witness_FrameAcceptedResult : (at3 .awaitingChecksum [0xAA#8, 0xBB#8, 0xCC#8] none).st = .awaitingChecksum ∧
    0xDD#8 = xorFold (at3 .awaitingChecksum [0xAA#8, 0xBB#8, 0xCC#8] none).buf := by decide
theorem test_witness_ChecksumRejectionResult : (at3 .awaitingChecksum [0xAA#8, 0xBB#8, 0xCC#8] none).st = .awaitingChecksum ∧
    0xDC#8 ≠ xorFold (at3 .awaitingChecksum [0xAA#8, 0xBB#8, 0xCC#8] none).buf := by decide
theorem test_witness_TakeResult : (at3 .awaitingStart [] none).slot = none := by decide
theorem test_witness_ResetCommandResult : (0x7FF#11).getLsbD 10 = true ∧ (0x400#11).getLsbD 10 = true ∧
    (Instr.p 0x00#8).isCommand = true ∧ Instr.p 0x00#8 ≠ .rst := by decide
theorem test_witness_InvariantKeptByEveryStep : (raw3 .receiving [0x01#8] none).Inv ∧
    view (step ((at3 .receiving [0x01#8] none).present 0x102#11)) = some (.receiving, [0x01#8, 0x02#8], none, none, 0#5) := by decide
theorem test_witness_EveryCommandCompletes : (Instr.pt 0x00#8).isCommand = true := by decide
theorem test_witness_ConfigurationNeverChanges :
    exec .t (at3 .awaitingStart [] none) = .next (at3 .awaitingStart [] none) ∧
    step ((at3 .awaitingStart [] none).present 0x200#11) =
      .next { at3 .awaitingStart [] none with draws := 1, legal := rfl } := ⟨rfl, rfl⟩
theorem test_witness_SequencerEdgesAreComplete : Instr.t ≠ .rst ∧ Instr.t.byte = none ∧ Instr.p 0xFF#8 ≠ .rst ∧
    (Instr.p 0xFF#8).byte ≠ none ∧ (view (exec (.p 0xFF#8) (at3 .awaitingStart [] none))).isSome = true ∧
    sequencerEdge .awaitingEnd .awaitingStart = true := by decide
theorem test_witness_BufferWriters : Instr.pt 0x01#8 ≠ .rst ∧ (Instr.pt 0x01#8).byte = some 0x01#8 ∧ Instr.nop.byte = none ∧
    (view (exec .nop (at3 .receiving [] none))).isSome = true ∧
    (view (exec (.pt 0x01#8) (at3 .awaitingStart [] none))).isSome = true ∧
    (view (exec (.pt 0x01#8) (at3 .receiving [] none))).isSome = true ∧
    (view (exec (.pt 0x01#8) (at3 .awaitingEnd [0x01#8, 0x02#8, 0x03#8] none))).isSome = true ∧
    (view (exec (.pt 0x01#8) (at3 .awaitingChecksum [0x01#8, 0x02#8, 0x03#8] none))).isSome = true := by decide
theorem test_witness_SlotMultiplexer : (Instr.pt 0xDD#8).isCommand = true ∧
    view (exec (.pt 0xDD#8) (at3 .awaitingChecksum [0xAA#8, 0xBB#8, 0xCC#8] none)) =
      some (.awaitingStart, [], some [0xAA#8, 0xBB#8, 0xCC#8], none, 0b00010#5) := by decide
theorem test_witness_OutputRecordOfEveryInstruction :
    view (exec (.p 0xDC#8) (at3 .awaitingChecksum [0xAA#8, 0xBB#8, 0xCC#8] (some [0x01#8, 0x02#8, 0x03#8]))) =
      some (.awaitingStart, [], none, none, 0b11000#5) := by decide
theorem test_witness_PacketPortLanes :
    (at3 .awaitingStart [] (some [0x01#8, 0x02#8, 0x03#8])).slot = some [0x01#8, 0x02#8, 0x03#8] ∧
    0 < [0x01#8, 0x02#8, 0x03#8].length ∧ 2 < [0x01#8, 0x02#8, 0x03#8].length ∧
    view (exec .t (at3 .awaitingStart [] (some [0x01#8, 0x02#8, 0x03#8]))) =
      some (.awaitingStart, [], none, some [0x01#8, 0x02#8, 0x03#8], 0#5) := by decide
theorem test_witness_LengthPortIsExact : (at3 .awaitingEnd [0x01#8, 0x02#8, 0x03#8] none).lenPort = 3 := by decide
theorem test_witness_ConstructionRefusesOnlyZeroLength : (0 : Nat) = 0 ∧ 1 ≤ 1 := by decide
theorem test_witness_RefusedExactlyOutsideInvariant :
    refusal (State.ofRaw (raw3 .receiving [0x01#8, 0x02#8, 0x03#8] none)) = some .outsideInvariant ∧
    view (State.ofRaw (raw3 .receiving [0x01#8, 0x02#8] none)) = some (.receiving, [0x01#8, 0x02#8], none, none, 0#5) := by decide
theorem test_witness_WellFormedMeansItCanOccur : (Instr.t1 0xFF#8).WellFormed cfg3 ∧
    (view (exec (.t1 0xFF#8) (at3 .awaitingStart [] none))).isSome = true := by decide
theorem test_witness_XorFoldIsTheChecksum : [0x03#8, 0x01#8, 0x02#8].Perm [0x01#8, 0x02#8, 0x03#8] ∧ 0 < 8 ∧ 7 < 8 := by decide
theorem test_witness_ChecksumDetectsExactlyTheFoldedDifference : [0x80#8, 0x80#8, 0x00#8].length = [0xAA#8, 0xBB#8, 0xCC#8].length ∧
    (at3 .awaitingChecksum [0xAA#8, 0xBB#8, 0xCC#8] none).st = .awaitingChecksum ∧
    [0x80#8, 0x80#8, 0x00#8].length = (at3 .awaitingChecksum [0xAA#8, 0xBB#8, 0xCC#8] none).cfg.n ∧
    (at3 .awaitingChecksum [0x2A#8, 0x3B#8, 0xCC#8] none).toRaw =
      { (at3 .awaitingChecksum [0xAA#8, 0xBB#8, 0xCC#8] none).toRaw with
        buf := List.zipWith (fun a d => a ^^^ d) [0xAA#8, 0xBB#8, 0xCC#8] [0x80#8, 0x80#8, 0x00#8] } ∧
    xorFold [0x80#8, 0x80#8, 0x00#8] = 0x00#8 := by decide
theorem test_witness_HuntingIgnoresEveryByteButStart : (at3 .awaitingStart [] none).st = .awaitingStart ∧
    (∀ b ∈ [0x00#8, 0xEE#8, 0x7F#8, 0xFE#8], b ≠ (at3 .awaitingStart [] none).cfg.start) := by decide
theorem test_witness_PayloadIsReceivedByPosition : (at3 .awaitingStart [] none).st = .awaitingStart ∧
    [0xFF#8, 0xEE#8, 0xFF#8].length ≤ (at3 .awaitingStart [] none).cfg.n ∧
    ([] : Packet).length ≤ (at3 .awaitingStart [] none).cfg.n := by decide

/-- The wire frame `FF 01 02 03 EE 00` and a `T` after it, on the host's stream. -/
def framed : State :=
  (State.resetOf cfg3).place { raw3 .awaitingStart [] (some [0x09#8, 0x09#8, 0x09#8]) with
    input := [0x1FF#11, 0x101#11, 0x102#11, 0x103#11, 0x1EE#11, 0x100#11, 0x200#11] }

theorem test_witness_FrameRoundTrip : framed.st = .awaitingStart ∧ [0x01#8, 0x02#8, 0x03#8].length = framed.cfg.n ∧
    framed.input = byteWords (frameBytes framed.cfg [0x01#8, 0x02#8, 0x03#8]) ++ [0x200#11] := by decide
theorem test_witness_AcceptanceCriterion : framed.st = .awaitingStart ∧
    [0x01#8, 0x02#8, 0x03#8].length = framed.cfg.n ∧ 0xEE#8 = framed.cfg.stop ∧ 0xEF#8 ≠ framed.cfg.stop := by decide
theorem test_witness_AcceptOnlyAfterAWholeFrame : (State.resetOf cfg1).st = .awaitingStart ∧
    (∀ j ∈ scriptBytes [0xFF#8, 0x5A#8, 0xEE#8], j ≠ Instr.rst) ∧
    (acceptedPayloads (trace (scriptBytes [0xFF#8, 0x5A#8, 0xEE#8, 0x5A#8]) (State.resetOf cfg1))) = [[0x5A#8]] := by decide
theorem test_witness_AcceptOnlyAfterAWholeFrame_step : ∃ t u : State,
    runCommands (scriptBytes [0xFF#8, 0x5A#8, 0xEE#8]) (State.resetOf cfg1) = .next t ∧ exec (.p 0x5A#8) t = .next u ∧
    u.out.accept = true := ⟨_, _, rfl, rfl, rfl⟩
theorem test_witness_ReceptionIgnoresTakesAndPauses :
    (∀ i ∈ [Instr.p 0xFF#8, .t, .nop, .pt 0x01#8], i.isCommand = true ∧ i ≠ .rst) ∧
    (∀ i ∈ [Instr.p 0xFF#8, .p 0x01#8], i.isCommand = true ∧ i ≠ .rst) ∧
    streamBytes [Instr.p 0xFF#8, .t, .nop, .pt 0x01#8] = streamBytes [Instr.p 0xFF#8, .p 0x01#8] := by decide
theorem test_witness_TakenPacketsAreAcceptedPayloadsInOrder :
    view (runCommands [.t, .pt 0xFF#8] (at3 .awaitingStart [] (some [0x01#8, 0x02#8, 0x03#8]))) =
      some (.receiving, [], none, none, 0b00001#5) := by decide
theorem test_witness_ReferenceDriverLosesNothing : (State.resetOf cfg1).slot = none ∧
    driverCommands [some 0xFF#8, none] = [.rst, .p 0xFF#8, .t, .t] ∧ driverIterations [some 0xFF#8] = [.p 0xFF#8, .t] ∧
    acceptedPayloads (trace (driverCommands [some 0xFF#8, none, some 0x5A#8, some 0xEE#8, some 0x5A#8]) (State.resetOf cfg1)) =
      [[0x5A#8]] := by decide
theorem test_witness_TakeWindow : (at3 .awaitingStart [] (some [0x01#8, 0x02#8, 0x03#8])).st = .awaitingStart ∧
    (∀ i ∈ scriptBytes [0xFF#8, 0x01#8, 0x02#8, 0x03#8, 0xEE#8], i ≠ .t) ∧
    (streamBytes (scriptBytes [0xFF#8, 0x01#8, 0x02#8, 0x03#8, 0xEE#8])).length ≤ cfg3.n + 2 := by decide
theorem test_witness_TakeWindow_commands :
    ∀ i ∈ scriptBytes [0xFF#8, 0x01#8, 0x02#8, 0x03#8, 0xEE#8], i = .nop ∨ ∃ b, i = .p b := by
  intro i hi
  obtain ⟨b, -, rfl⟩ := List.mem_map.mp hi
  exact .inr ⟨b, rfl⟩

/-- A datapath in mid-frame, with a packet pending. -/
def midFrame : Datapath :=
  { cfg := cfg3, st := .receiving, count := 2, store := [0x01#8, 0x02#8, 0x77#8], acc := 0x03#8, pktValid := true,
    pktStore := [0x09#8, 0x09#8, 0x09#8], out := Out.quiet }

theorem test_witness_DatapathRefinesTheModel : midFrame.wf = true := by decide

/-- Iterations that receive the frame `FF 5A EE 5A` with N = 1, the sink refusing its packet. -/
def oneFrame : List Iteration :=
  [Iteration.undisturbed (some 0xFF#8) .ok, Iteration.undisturbed (some 0x5A#8) .ok, Iteration.undisturbed (some 0xEE#8) .ok,
    Iteration.undisturbed (some 0x5A#8) .error]

/-- What a test of the loop looks at: the failed and the diagnosed packets, both connections, the status. -/
def relayView (o : Host.Outcome Relay Fault Refusal) : List Packet × List Packet × List Connection × Option LoopStatus :=
  match o with
  | .next r => (r.failed, r.diagnosed, [r.transport, r.bus], some r.status)
  | .fault _ => ([], [], [], none)
  | .refused _ => ([], [], [], none)

/-- Under the continuing policy a sink error stops nothing and both connections stay held (R164, R170). -/
theorem test_relay_continuing : relayView (Relay.session .continuing oneFrame (State.resetOf cfg1)) =
    ([[0x5A#8]], [[0x5A#8]], [.held, .held], some .running) := by decide
/-- Under the aborting policy it ends the loop and releases both connections (R165). -/
theorem test_relay_aborting : relayView (Relay.session .aborting oneFrame (State.resetOf cfg1)) =
    ([[0x5A#8]], [[0x5A#8]], [.released, .released], some .sinkFailed) := by decide
/-- A running loop (the packet pending before its `RST` is gone), and iterations that end it. -/
theorem test_witness_RelayLoopStopsBetweenIterations :
    relayView (Relay.start (at3 .awaitingStart [] (some [0x01#8, 0x02#8, 0x03#8]))) = ([], [], [.held, .held], some .running) ∧
    ({ cancel := true, read := .timeout, publish := .ok } : Iteration).cancel = true ∧
    ({ cancel := false, read := .fatal, publish := .ok } : Iteration).read = .fatal := by decide

end Sys2Proof.Tests
end

namespace Sys2Proof.Machine

/-! ## The output record of an instruction (00_scope.md R17, 30_encoding.md R84)

`Out.ofRow` says which flags a row of the transition table leaves raised; `exec_next_out` ties it to `exec`. Every fact about
the flags of a step is then one about `Out.ofRow`. -/

/-- The output record of a step that took `taken` and whose byte, if it has one, selects `row`; `full` says whether the slot
still holds a packet when the row is performed. -/
def Out.ofRow (taken : Option Packet) (row : Option Row) (full : Bool) : Out :=
  { taken := taken
    sof := row == some .T1
    accept := row == some .T7a
    rejEnd := row == some .T6
    rejCsum := row == some .T7b
    drop := (row == some .T7a || row == some .T7b) && full }

/-- Without a row no flag is raised. -/
theorem Out.ofRow_none (taken : Option Packet) (full : Bool) :
    Out.ofRow taken none full = { Out.quiet with taken := taken } := rfl

/-- What a row leaves in an output record that no event has been raised in yet (R102 to R109). -/
theorem Raw.applyRow_out {s : Raw} {taken : Option Packet} (h : s.out = { Out.quiet with taken := taken }) (r : Row) (b : Byte) :
    (s.applyRow r b).out = Out.ofRow taken (some r) s.slot.isSome := by
  cases r with
  | T1 => exact congrArg (Out.raise · .sof) h
  | T2 => exact h
  | T3 => exact h
  | T4 => exact h
  | T5 => exact h
  | T6 => exact congrArg (Out.raise · .rejEnd) h
  | T7a => cases hs : s.slot <;> simp [Raw.applyRow, Raw.acceptFrame, h, hs] <;> rfl
  | T7b => cases hs : s.slot <;> simp [Raw.applyRow, Raw.rejectChecksum, h, hs] <;> rfl

/-- `process(b)` leaves the record of the row that R79 selects. -/
theorem Raw.process_out {s : Raw} {taken : Option Packet} (h : s.out = { Out.quiet with taken := taken }) (b : Byte) :
    (s.process b).out = Out.ofRow taken (some (s.select b)) s.slot.isSome :=
  Raw.applyRow_out h (s.select b) b

/-- A transition row taken on its own is neither a take nor a take merged with a byte. -/
theorem Row.instr_not_take (r : Row) (b : Byte) : ¬ (r.instr b = .t ∨ ∃ c, r.instr b = .pt c) := by
  cases r <;> simp [Row.instr]

/-- A transition row taken on its own carries its byte. -/
@[simp] theorem Row.instr_byte (r : Row) (b : Byte) : (r.instr b).byte = some b := by
  cases r <;> rfl

/-- The output record of every instruction that completes: `taken` is the slot in `T` and `PT` only; the row is the one its byte
selects; the row meets a full slot unless the take of `PT` has emptied it (41_take.md R133). -/
theorem exec_next_out {i : Instr} {s t : State} (h : exec i s = .next t) :
    t.out = Out.ofRow (if i = .t ∨ ∃ b, i = .pt b then s.slot else none) (i.byte.map s.select)
      (decide (s.slot ≠ none ∧ ∀ b, i ≠ .pt b)) := by
  obtain ⟨rfl, ht⟩ | ⟨rfl, ht⟩ | ⟨rfl, ht⟩ | ⟨b, rfl, ht⟩ | ⟨b, hi, ht⟩ := exec_next_cases h
  · rw [ht, if_neg (by simp)]
    exact (Out.ofRow_none none _).symm
  · rw [ht, if_neg (by simp)]
    exact (Out.ofRow_none none _).symm
  · rw [ht, if_pos (.inl rfl)]
    exact (Out.ofRow_none s.slot _).symm
  · rw [ht, Raw.process_out (taken := s.slot) rfl, if_pos (.inr ⟨b, rfl⟩)]
    simp [Instr.byte]
  · have hbyte : i.byte = some b := by
      obtain rfl | rfl := hi
      · rfl
      · exact Row.instr_byte _ _
    have htake : ¬ (i = .t ∨ ∃ c, i = .pt c) := by
      obtain rfl | rfl := hi
      · simp
      · exact Row.instr_not_take _ _
    have hpt : ∀ c, i ≠ .pt c := fun c hc => htake (.inr ⟨c, hc⟩)
    rw [ht, Raw.process_out (taken := none) rfl, if_neg htake, hbyte]
    cases hs : s.slot <;> simp [hs, hpt]

/-- The bits of `ev` are the five flags, lowest first: sof, accept, rej_end, rej_csum, drop (R84). -/
theorem Out.ev_bits (o : Out) :
    o.ev.getLsbD 0 = o.sof ∧ o.ev.getLsbD 1 = o.accept ∧ o.ev.getLsbD 2 = o.rejEnd ∧ o.ev.getLsbD 3 = o.rejCsum ∧
      o.ev.getLsbD 4 = o.drop := by
  simp only [Out.ev, BitVec.getLsbD_append, BitVec.getLsbD_ofBool]
  simp

/-- The seven values of `ev` (R84): at most one row's event, and `Drop` beside `Accept` or `RejCsum` only. The
packet taken is no part of it. -/
theorem Out.ofRow_ev_mem (taken : Option Packet) (row : Option Row) (full : Bool) :
    (Out.ofRow taken row full).ev ∈
      [0b00000#5, 0b00001#5, 0b00010#5, 0b10010#5, 0b00100#5, 0b01000#5, 0b11000#5] := by
  change (Out.ofRow none row full).ev ∈ _
  cases row with
  | none => cases full <;> decide
  | some r => cases r <;> cases full <;> decide

/-- Settles O33: every clause is read off the record that `exec_next_out` gives. -/
theorem outputRecordOfEveryInstruction : Obligations.OutputRecordOfEveryInstruction := by
  unfold Obligations.OutputRecordOfEveryInstruction
  intro i s t h
  have hout := exec_next_out h
  have hev : t.evPort = t.out.ev := rfl
  refine ⟨?sof, ?accept, ?rejEnd, ?rejCsum, ?drop, ?taken, ?values, ?bits⟩
  case values => rw [hev, hout]; exact Out.ofRow_ev_mem _ _ _
  case bits => exact Out.ev_bits t.out
  all_goals simp [hout, Out.ofRow]

/-! ## The length port (10_state.md R25, 00_scope.md R10) -/

/-- The payload received so far never exceeds N (R25, from INV). -/
theorem State.buf_length_le (s : State) : s.buf.length ≤ s.cfg.n := by
  obtain ⟨hlen, -⟩ := (Raw.inv_iff s.toRaw).mp s.legal
  obtain ⟨hstart, hrecv, hend, hcsum⟩ := (Raw.lenLegal_iff s.toRaw).mp hlen
  cases hst : s.st with
  | awaitingStart => simp [hstart hst]
  | receiving => exact Nat.le_of_succ_le (hrecv hst)
  | awaitingEnd => exact (hend hst).le
  | awaitingChecksum => exact (hcsum hst).le

/-- N can be written in LW bits. -/
theorem n_lt_two_pow_lenWidth (cfg : Config) : cfg.n < 2 ^ lenWidth cfg := Nat.lt_log2_self

/-- N cannot be written in fewer than LW bits. -/
theorem two_pow_lenWidth_pred_le (cfg : Config) : 2 ^ (lenWidth cfg - 1) ≤ cfg.n :=
  Nat.log2_self_le (Nat.ne_of_gt cfg.n_pos)

/-- Settles O35: INV bounds the buffer by N, and N fits in LW bits. -/
theorem lengthPortIsExact : Obligations.LengthPortIsExact := by
  unfold Obligations.LengthPortIsExact
  refine ⟨fun s => ⟨?_, s.buf_length_le⟩, fun cfg => ⟨two_pow_lenWidth_pred_le cfg, n_lt_two_pow_lenWidth cfg⟩⟩
  have hfits : s.buf.length < 2 ^ lenWidth s.cfg := s.buf_length_le.trans_lt (n_lt_two_pow_lenWidth s.cfg)
  calc s.lenPort.toNat = s.buf.length % 2 ^ lenWidth s.cfg := BitVec.toNat_ofNat _ _
    _ = s.buf.length := Nat.mod_eq_of_lt hfits

/-! ## One step of the host's stream (20_memory.md R58) -/

/-- The word of a cycle with neither a byte nor a take is `NOP` (R76, R132). -/
theorem decodeCommand_zero : decodeCommand 0x000#11 = .nop := by decide

/-- Settles O5, by what the fetch answers for a stream with and without a head. -/
theorem stepRunsTheDecodedCommand : Obligations.StepRunsTheDecodedCommand := by
  unfold Obligations.StepRunsTheDecodedCommand
  constructor
  · intro s w ws h
    rw [step, State.fetch_cons h]
  · intro s h
    rw [step, State.fetch_nil h, decodeCommand_zero]

/-! ## Construction and the reference deployment (42_system.md R151, 00_scope.md R8) -/

/-- LW of the reference deployment: `2^7 ≤ 160 < 2^8`. -/
theorem lenWidth_reference : lenWidth Config.reference = 8 := by
  have hlog : Nat.log2 160 = 7 := (Nat.log2_eq_iff (by decide)).mpr (by decide)
  exact congrArg (· + 1) hlog

/-- Settles O23: the constants are those of `Config.reference`; the size of the state follows from its LW and N. -/
theorem referenceDeployment : Obligations.ReferenceDeployment := by
  unfold Obligations.ReferenceDeployment
  have hcfg : State.reset.cfg = Config.reference := State.resetOf_cfg _
  have hn : Config.reference.n = 160 := rfl
  rw [hcfg]
  refine ⟨rfl, rfl, hn, ?frame, lenWidth_reference, ?bits⟩
  case frame => rw [frameLength, hn]
  case bits => rw [stateBits, lenWidth_reference, hn]

/-- With N = 0 nothing is constructed. -/
theorem construct_zero (start stop : Byte) : construct start stop 0 = .refused .zeroPayloadLength := rfl

/-- With N >= 1 the block stands at the reset state of its configuration. -/
theorem construct_of_pos (start stop : Byte) {n : Nat} (h : 1 ≤ n) :
    construct start stop n = .next (State.resetOf { start := start, stop := stop, n := n, n_pos := h }) :=
  dif_pos (decide_eq_true h)

/-- Settles O24: `construct` has one equation for N = 0 and one for N >= 1. -/
theorem constructionRefusesOnlyZeroLength : Obligations.ConstructionRefusesOnlyZeroLength := by
  unfold Obligations.ConstructionRefusesOnlyZeroLength
  intro start stop n
  constructor
  · rintro rfl
    exact construct_zero start stop
  · intro h
    exact ⟨_, rfl, rfl, rfl, construct_of_pos start stop h⟩

end Sys2Proof.Machine

namespace Sys2Proof

/-- Does the instruction take the packet (41_take.md R130, R133)? -/
def Instr.takes (i : Instr) : Bool :=
  match i with
  | .t => true
  | .pt _ => true
  | _ => false

end Sys2Proof

namespace Sys2Proof.Machine

/-! ## The effect of a step in two halves (41_take.md R133)

Every instruction but `RST` is a consumer half, a take or nothing, followed by a byte half, `process` of the byte it carries or
nothing. `Raw.cycle` is that composition; `exec_eq_cycle` and `exec_decodeCommand` tie it to `exec`. What holds of every
instruction is then proved once, of the two halves. -/

/-- The consumer half of a step: the output record starts afresh, then the take, if there is one. -/
def Raw.takeHalf (s : Raw) (take : Bool) : Raw := if take then s.fresh.take else s.fresh

/-- The effect of a step without reset: the consumer half, then `process` of the byte, if there is one. -/
def Raw.cycle (s : Raw) (take : Bool) (byte : Option Byte) : Raw :=
  match byte with
  | none => s.takeHalf take
  | some b => (s.takeHalf take).process b

/-- The effect of the command word `w`: `rst` overrides everything (30_encoding.md R76). -/
def Raw.applyWord (s : Raw) (w : CmdWord) : Raw :=
  if w.rst then s.fresh.resync.clearSlot
  else s.cycle w.pktTake (if w.inValid then some w.inData else none)

@[simp] theorem Raw.takeHalf_cfg (s : Raw) (take : Bool) : (s.takeHalf take).cfg = s.cfg := by cases take <;> rfl
@[simp] theorem Raw.takeHalf_st (s : Raw) (take : Bool) : (s.takeHalf take).st = s.st := by cases take <;> rfl
@[simp] theorem Raw.takeHalf_buf (s : Raw) (take : Bool) : (s.takeHalf take).buf = s.buf := by cases take <;> rfl
@[simp] theorem Raw.takeHalf_input (s : Raw) (take : Bool) : (s.takeHalf take).input = s.input := by cases take <;> rfl
@[simp] theorem Raw.takeHalf_draws (s : Raw) (take : Bool) : (s.takeHalf take).draws = s.draws := by cases take <;> rfl
@[simp] theorem Raw.takeHalf_slot (s : Raw) (take : Bool) : (s.takeHalf take).slot = if take then none else s.slot := by
  cases take <;> rfl
@[simp] theorem Raw.takeHalf_out (s : Raw) (take : Bool) :
    (s.takeHalf take).out = { Out.quiet with taken := if take then s.slot else none } := by cases take <;> rfl
@[simp] theorem Raw.takeHalf_select (s : Raw) (take : Bool) (b : Byte) : (s.takeHalf take).select b = s.select b :=
  Raw.select_congr (by simp) (by simp) (by simp) b

@[simp] theorem Raw.cycle_none (s : Raw) (take : Bool) : s.cycle take none = s.takeHalf take := rfl
@[simp] theorem Raw.cycle_some (s : Raw) (take : Bool) (b : Byte) : s.cycle take (some b) = (s.takeHalf take).process b := rfl

@[simp] theorem Raw.cycle_cfg (s : Raw) (take : Bool) (byte : Option Byte) : (s.cycle take byte).cfg = s.cfg := by
  cases byte <;> simp
@[simp] theorem Raw.cycle_input (s : Raw) (take : Bool) (byte : Option Byte) : (s.cycle take byte).input = s.input := by
  cases byte <;> simp
@[simp] theorem Raw.cycle_draws (s : Raw) (take : Bool) (byte : Option Byte) : (s.cycle take byte).draws = s.draws := by
  cases byte <;> simp

/-- An instruction other than `RST` is its two halves, or a row that R79 does not select and that is refused by that name. -/
theorem exec_eq_cycle {i : Instr} (hi : i ≠ .rst) (s : State) :
    exec i s = State.ofRaw (s.cycle i.takes i.byte) ∨ exec i s = .refused .rowNotSelected := by
  have row (r : Row) (b : Byte) :
      exec (r.instr b) s = State.ofRaw (s.fresh.process b) ∨ exec (r.instr b) s = .refused .rowNotSelected := by
    by_cases hr : s.select b = r
    · exact .inl (exec_row_of_selected hr)
    · exact .inr (exec_row_of_not_selected hr)
  cases i with
  | rst => exact absurd rfl hi
  | nop => exact .inl (exec_nop s)
  | p b => exact .inl (exec_p s b)
  | t => exact .inl (exec_t s)
  | pt b => exact .inl (exec_pt s b)
  | t1 b => exact row .T1 b
  | t2 b => exact row .T2 b
  | t3 b => exact row .T3 b
  | t4 b => exact row .T4 b
  | t5 b => exact row .T5 b
  | t6 b => exact row .T6 b
  | t7a b => exact row .T7a b
  | t7b b => exact row .T7b b

/-- All that an instruction other than `RST` leaves when it completes. -/
theorem exec_next_cycle {i : Instr} {s t : State} (hi : i ≠ .rst) (h : exec i s = .next t) :
    t.toRaw = s.cycle i.takes i.byte := by
  obtain hc | hc := exec_eq_cycle hi s
  · exact State.ofRaw_eq_next.mp (hc.symm.trans h)
  · rw [hc] at h
    cases h

/-- What `RST` leaves. -/
theorem exec_next_rst {s t : State} (h : exec .rst s = .next t) : t.toRaw = s.fresh.resync.clearSlot := by
  rw [exec_rst] at h
  exact State.ofRaw_eq_next.mp h

/-- The command of a word has the effect of the word. -/
theorem exec_decodeCommand (w : CmdWord) (s : State) : exec (decodeCommand w) s = State.ofRaw (s.applyWord w) := by
  unfold decodeCommand Raw.applyWord
  cases w.rst with
  | true => exact exec_rst s
  | false =>
    cases w.pktTake with
    | true => cases w.inValid with
      | true => exact exec_pt s w.inData
      | false => exact exec_t s
    | false => cases w.inValid with
      | true => exact exec_p s w.inData
      | false => exact exec_nop s

/-! ## INV (10_state.md R32) -/

/-- INV with both of its parts written out. -/
theorem Raw.inv_iff_forall (s : Raw) : s.Inv ↔
    ((s.st = .awaitingStart → s.buf = []) ∧ (s.st = .receiving → s.buf.length + 1 ≤ s.cfg.n) ∧
      (s.st = .awaitingEnd → s.buf.length = s.cfg.n) ∧ (s.st = .awaitingChecksum → s.buf.length = s.cfg.n)) ∧
    ∀ p, s.slot = some p → p.length = s.cfg.n := by
  rw [Raw.inv_iff, Raw.lenLegal_iff, Raw.slotLegal_iff]

/-- A reset meets INV, whatever was there. -/
theorem Raw.reset_inv (s : Raw) : s.resync.clearSlot.Inv := rfl

/-- The output record is no part of INV. -/
theorem Raw.fresh_inv_of_inv {s : Raw} (h : s.Inv) : s.fresh.Inv := h

/-- The one transition of `process(b)` keeps INV: the buffer grows only below N, and what is stored in the slot is a whole payload. -/
theorem Raw.process_inv {s : Raw} (h : s.Inv) (b : Byte) : (s.process b).Inv := by
  obtain ⟨⟨-, hrecv, hend, hcsum⟩, hslot⟩ := (Raw.inv_iff_forall s).mp h
  cases hst : s.st with
  | awaitingStart =>
    rw [Raw.process_awaitingStart s b hst]
    by_cases hb : b = s.cfg.start
    · rw [if_pos hb, Raw.inv_iff_forall]
      simpa using ⟨s.cfg.n_pos, hslot⟩
    · rwa [if_neg hb]
  | receiving =>
    have hlen := hrecv hst
    rw [Raw.process_receiving s b hst, Raw.inv_iff_forall]
    refine ⟨?_, hslot⟩
    by_cases hn : s.buf.length + 1 = s.cfg.n
    · simp [hn]
    · simp [hn]
      omega
  | awaitingEnd =>
    rw [Raw.process_awaitingEnd s b hst]
    by_cases hb : b = s.cfg.stop
    · rw [if_pos hb, Raw.inv_iff_forall]
      simpa using ⟨hend hst, hslot⟩
    · rw [if_neg hb, Raw.inv_iff_forall]
      simpa using hslot
  | awaitingChecksum =>
    rw [Raw.process_awaitingChecksum s b hst, Raw.inv_iff_forall]
    by_cases hb : b = xorFold s.buf
    · simp [hb, hcsum hst]
    · simp [hb]

/-- The consumer half keeps INV. -/
theorem Raw.takeHalf_inv {s : Raw} (h : s.Inv) (take : Bool) : (s.takeHalf take).Inv := by
  cases take with
  | true => exact Raw.take_inv (Raw.fresh_inv_of_inv h)
  | false => exact Raw.fresh_inv_of_inv h

/-- A step without reset keeps INV. -/
theorem Raw.cycle_inv {s : Raw} (h : s.Inv) (take : Bool) (byte : Option Byte) : (s.cycle take byte).Inv := by
  cases byte with
  | none => exact Raw.takeHalf_inv h take
  | some b => exact Raw.process_inv (Raw.takeHalf_inv h take) b

/-- Every command word keeps INV. -/
theorem Raw.applyWord_inv {s : Raw} (h : s.Inv) (w : CmdWord) : (s.applyWord w).Inv := by
  unfold Raw.applyWord
  by_cases hw : w.rst = true
  · rw [if_pos hw]
    exact Raw.reset_inv s.fresh
  · rw [if_neg hw]
    exact Raw.cycle_inv h _ _

/-- Every command word completes, with exactly its effect (R80, R196). -/
theorem exec_decodeCommand_completes (w : CmdWord) (s : State) : Completes (exec (decodeCommand w) s) (s.applyWord w) := by
  rw [exec_decodeCommand]
  exact completes_ofRaw (Raw.applyWord_inv s.legal w)

/-- Settles O25: a step is the effect of the word it fetches, which keeps INV. -/
theorem invariantKeptByEveryStep : Obligations.InvariantKeptByEveryStep := by
  unfold Obligations.InvariantKeptByEveryStep
  constructor
  · intro r h
    exact ⟨Raw.fresh_inv_of_inv h, Raw.take_inv h, Raw.reset_inv r,
      fun b => ⟨Raw.process_inv h b, Raw.process_inv (Raw.take_inv h) b⟩⟩
  · intro s
    obtain ⟨t, ht, -⟩ := exec_decodeCommand_completes s.fetch.1 s.fetch.2
    exact ⟨t, ht, t.legal⟩

/-- Settles O26: the reset triple meets INV by evaluation, and the effect of `RST` always leaves it. -/
theorem resetMeetsInvariant : Obligations.ResetMeetsInvariant := by
  unfold Obligations.ResetMeetsInvariant
  exact ⟨State.reset.legal, fun cfg => (State.resetOf cfg).legal, fun r => Raw.reset_inv r.fresh⟩

/-- No instruction ends outside INV. -/
theorem exec_ne_outsideInvariant (i : Instr) (s : State) : exec i s ≠ .refused .outsideInvariant := by
  by_cases hi : i = .rst
  · subst hi
    rw [exec_rst, State.ofRaw_of_inv (Raw.reset_inv s.fresh)]
    simp
  · obtain h | h := exec_eq_cycle hi s
    · rw [h, State.ofRaw_of_inv (Raw.cycle_inv s.legal _ _)]
      simp
    · rw [h]
      simp

/-- Settles O28: `ofRaw` looks at INV and nothing else, a state is its contents, and every effect keeps INV. -/
theorem refusedExactlyOutsideInvariant : Obligations.RefusedExactlyOutsideInvariant := by
  unfold Obligations.RefusedExactlyOutsideInvariant
  refine ⟨fun r => ⟨?refused, State.ofRaw_of_not_inv⟩, fun r => ⟨?contents, ?legal⟩, fun s t => State.eq_of_toRaw,
    exec_ne_outsideInvariant⟩
  case refused =>
    intro h hinv
    rw [State.ofRaw_of_inv hinv] at h
    cases h
  case contents => exact fun h => ⟨{ r with legal := h }, rfl, State.ofRaw_of_inv h⟩
  case legal =>
    rintro ⟨s, rfl, -⟩
    exact s.legal

/-! ## The configuration (10_state.md R20) -/

@[simp] theorem State.fetch_cfg (s : State) : s.fetch.2.cfg = s.cfg := by
  cases h : s.input with
  | nil => rw [State.fetch_nil h]
  | cons w ws => rw [State.fetch_cons h]

/-- No instruction writes the configuration or the model's own fields. -/
theorem exec_next_frame {i : Instr} {s t : State} (h : exec i s = .next t) :
    t.cfg = s.cfg ∧ t.input = s.input ∧ t.draws = s.draws := by
  by_cases hi : i = .rst
  · subst hi
    simp [exec_next_rst h]
  · simp [exec_next_cycle hi h]

/-- Settles O29: neither the fetch nor an instruction writes the configuration. -/
theorem configurationNeverChanges : Obligations.ConfigurationNeverChanges := by
  unfold Obligations.ConfigurationNeverChanges
  refine ⟨fun i s t => exec_next_frame, fun s t h => ?_⟩
  obtain ⟨hcfg, -, -⟩ := exec_next_frame h
  exact hcfg.trans s.fetch_cfg

/-! ## Who writes `st` and `buf` (10_state.md R22, R27) -/

/-- `process(b)` takes one of the edges of R22. -/
theorem Raw.process_sequencerEdge (s : Raw) (b : Byte) : sequencerEdge s.st (s.process b).st = true := by
  cases hst : s.st with
  | awaitingStart =>
    rw [Raw.process_awaitingStart s b hst]
    by_cases hb : b = s.cfg.start
    · rw [if_pos hb]; rfl
    · rw [if_neg hb, hst]; rfl
  | receiving =>
    rw [Raw.process_receiving s b hst]
    by_cases hn : s.buf.length + 1 = s.cfg.n <;> simp [hn, sequencerEdge]
  | awaitingEnd =>
    rw [Raw.process_awaitingEnd s b hst]
    by_cases hb : b = s.cfg.stop <;> simp [hb, sequencerEdge]
  | awaitingChecksum =>
    rw [Raw.process_awaitingChecksum s b hst]
    rfl

/-- Contents that meet INV and a byte show an edge of the sequencer. -/
theorem exists_edge_of_process {r : Raw} (h : r.Inv) (b : Byte) :
    ∃ (s t : State) (b' : Byte), s.st = r.st ∧ exec (.p b') s = .next t ∧ t.st = (r.fresh.process b).st :=
  ⟨{ r with legal := h }, _, b, rfl, State.ofRaw_of_inv (Raw.process_inv (Raw.fresh_inv_of_inv h) b), rfl⟩

/-- A small configuration that shows every edge: N = 2, so that Receiving can be both left and kept. -/
def edgeConfig : Config := { start := 0xFF#8, stop := 0xEE#8, n := 2, n_pos := by decide }

/-- Contents under `edgeConfig` with the slot empty. -/
def edgeRaw (st : SeqState) (buf : Packet) : Raw := { (State.resetOf edgeConfig).toRaw with st := st, buf := buf }

/-- Every edge of R22 is taken, by a byte that is written out for it. -/
theorem exists_byte_of_sequencerEdge {v w : SeqState} (h : sequencerEdge v w = true) :
    ∃ (s t : State) (b : Byte), s.st = v ∧ exec (.p b) s = .next t ∧ t.st = w := by
  match v, w, h with
  | .awaitingStart, .awaitingStart, _ => exact exists_edge_of_process (r := edgeRaw .awaitingStart []) (by decide) 0x00#8
  | .awaitingStart, .receiving, _ => exact exists_edge_of_process (r := edgeRaw .awaitingStart []) (by decide) 0xFF#8
  | .receiving, .receiving, _ => exact exists_edge_of_process (r := edgeRaw .receiving []) (by decide) 0x01#8
  | .receiving, .awaitingEnd, _ => exact exists_edge_of_process (r := edgeRaw .receiving [0x01#8]) (by decide) 0x02#8
  | .awaitingEnd, .awaitingChecksum, _ =>
    exact exists_edge_of_process (r := edgeRaw .awaitingEnd [0x01#8, 0x02#8]) (by decide) 0xEE#8
  | .awaitingEnd, .awaitingStart, _ =>
    exact exists_edge_of_process (r := edgeRaw .awaitingEnd [0x01#8, 0x02#8]) (by decide) 0x00#8
  | .awaitingChecksum, .awaitingStart, _ =>
    exact exists_edge_of_process (r := edgeRaw .awaitingChecksum [0x01#8, 0x02#8]) (by decide) 0x03#8

/-- Settles O30: the byte half takes an edge of R22, the consumer half none, and each edge has its witness. -/
theorem sequencerEdgesAreComplete : Obligations.SequencerEdgesAreComplete := by
  unfold Obligations.SequencerEdgesAreComplete
  refine ⟨fun i s t hi h => ?_, fun s t h => ?_, fun v w => exists_byte_of_sequencerEdge⟩
  · have ht := exec_next_cycle hi h
    cases hb : i.byte with
    | none => simp [ht, hb]
    | some b => simpa [ht, hb] using Raw.process_sequencerEdge (s.takeHalf i.takes) b
  · simp [exec_next_rst h]

/-- What `process(b)` leaves in the buffer, by the state before (R27). In AwaitingStart the buffer is empty already (INV). -/
theorem Raw.process_buf {s : Raw} (h : s.Inv) (b : Byte) :
    (s.st = .awaitingStart → (s.process b).buf = []) ∧
    (s.st = .receiving → (s.process b).buf = s.buf ++ [b]) ∧
    (s.st = .awaitingEnd → (s.process b).buf = if b = s.cfg.stop then s.buf else []) ∧
    (s.st = .awaitingChecksum → (s.process b).buf = []) := by
  refine ⟨fun hst => ?start, fun hst => ?recv, fun hst => ?stop, fun hst => ?csum⟩
  case start =>
    obtain ⟨⟨hempty, -⟩, -⟩ := (Raw.inv_iff_forall s).mp h
    rw [Raw.process_awaitingStart s b hst]
    by_cases hb : b = s.cfg.start
    · rw [if_pos hb]
    · rw [if_neg hb, hempty hst]
  case recv => rw [Raw.process_receiving s b hst]
  case stop =>
    rw [Raw.process_awaitingEnd s b hst]
    by_cases hb : b = s.cfg.stop <;> simp [hb]
  case csum => rw [Raw.process_awaitingChecksum s b hst]

/-- Settles O31: the consumer half leaves `st` and `buf`; the byte half writes them as `Raw.process_buf` says. -/
theorem bufferWriters : Obligations.BufferWriters := by
  unfold Obligations.BufferWriters
  intro i s t hi h
  have ht := exec_next_cycle hi h
  refine ⟨fun hb => ?_, fun b hb => ?_⟩
  · simp [ht, hb]
  · simpa [ht, hb] using Raw.process_buf (Raw.takeHalf_inv s.legal i.takes) b

/-! ## The packet port (10_state.md R29, 20_memory.md R52) -/

/-- A packet's number has eight bits for each byte. -/
theorem packetNumber_lt (p : Packet) : packetNumber p < 2 ^ (8 * p.length) := by
  induction p with
  | nil => decide
  | cons b p ih =>
    have hb : b.toNat < 256 := b.isLt
    calc packetNumber (b :: p) = b.toNat + 256 * packetNumber p := rfl
      _ < 256 * 2 ^ (8 * p.length) := by omega
      _ = 2 ^ (8 * (b :: p).length) := by rw [List.length_cons, Nat.mul_succ, Nat.pow_add]; omega

/-- Byte `i` of a packet is bits `[8i+7 : 8i]` of its number. -/
theorem packetNumber_lane (p : Packet) (i : Nat) (h : i < p.length) :
    packetNumber p / 2 ^ (8 * i) % 2 ^ 8 = p[i].toNat := by
  induction p generalizing i with
  | nil => cases h
  | cons b p ih =>
    have hb : b.toNat < 256 := b.isLt
    have hcons : packetNumber (b :: p) = b.toNat + 256 * packetNumber p := rfl
    cases i with
    | zero => simpa [hcons] using hb
    | succ i =>
      have hi : i < p.length := Nat.lt_of_succ_lt_succ h
      have hrest : packetNumber (b :: p) / 2 ^ 8 = packetNumber p := by omega
      calc packetNumber (b :: p) / 2 ^ (8 * (i + 1)) % 2 ^ 8
          = packetNumber (b :: p) / 2 ^ 8 / 2 ^ (8 * i) % 2 ^ 8 := by
            rw [Nat.div_div_eq_div_mul, ← Nat.pow_add, Nat.mul_succ, Nat.add_comm]
        _ = p[i].toNat := by rw [hrest]; exact ih i hi

/-- A full slot holds a whole packet (from INV). -/
theorem State.slot_length {s : State} {p : Packet} (h : s.slot = some p) : p.length = s.cfg.n := by
  obtain ⟨-, hslot⟩ := (Raw.inv_iff_forall s.toRaw).mp s.legal
  exact hslot p h

/-- With a packet in the slot, lane `i` of `pkt_data` is byte `i` of the packet. -/
theorem State.pktData_lane {s : State} {p : Packet} (h : s.slot = some p) (i : Nat) (hi : i < p.length) :
    s.pktData.extractLsb' (8 * i) 8 = p[i] := by
  have hdata : s.pktData = BitVec.ofNat (8 * s.cfg.n) (packetNumber p) := by rw [Raw.pktData, h]
  have hfits : packetNumber p < 2 ^ (8 * s.cfg.n) := State.slot_length h ▸ packetNumber_lt p
  apply BitVec.eq_of_toNat_eq
  rw [hdata, BitVec.extractLsb'_toNat, BitVec.toNat_ofNat, Nat.mod_eq_of_lt hfits, Nat.shiftRight_eq_div_pow]
  exact packetNumber_lane p i hi

/-- `T` completes with the effect of a take. -/
theorem exec_t_completes (s : State) : Completes (exec .t s) s.fresh.take :=
  completes_ofRaw (Raw.take_inv (Raw.fresh_inv_of_inv s.legal))

/-- Settles O36: the lanes are the digits of the packet's number, and a take returns the slot that the port showed. -/
theorem packetPortLanes : Obligations.PacketPortLanes := by
  unfold Obligations.PacketPortLanes
  intro s
  obtain ⟨t, ht, hraw⟩ := exec_t_completes s
  have htaken : t.out.taken = s.slot := by simp [hraw]
  refine ⟨Option.isSome_iff_ne_none, fun p hp => ⟨State.slot_length hp, fun i hi => State.pktData_lane hp i hi⟩,
    t, ht, congrArg Option.isSome htaken, fun p hp => ?_⟩
  have hslot : s.slot = some p := htaken.symm.trans hp
  exact ⟨State.slot_length hslot, fun i hi => (State.pktData_lane hslot i hi).symm⟩

/-! ## The datapath (10_state.md R25, R31, R33; 41_take.md R134)

`Datapath.wf_iff` reads the invariant of the registers as INV of what they stand for and facts about the stores and the
accumulator. The three parts of a clock edge (the byte side, the slot's multiplexer, the output record) then meet the three
parts of `Raw.cycle` one by one; INV after the edge is INV of the model's effect. -/

/-- Contents are equal when their fields are. -/
theorem Raw.eq_of_fields {r s : Raw} (hcfg : r.cfg = s.cfg) (hst : r.st = s.st) (hbuf : r.buf = s.buf)
    (hslot : r.slot = s.slot) (hout : r.out = s.out) (hinput : r.input = s.input) (hdraws : r.draws = s.draws) : r = s := by
  cases r
  cases s
  simp_all

@[simp] theorem Datapath.abstract_cfg (d : Datapath) : d.abstract.cfg = d.cfg := rfl
@[simp] theorem Datapath.abstract_st (d : Datapath) : d.abstract.st = d.st := rfl
@[simp] theorem Datapath.abstract_buf (d : Datapath) : d.abstract.buf = d.store.take d.count := rfl
@[simp] theorem Datapath.abstract_slot (d : Datapath) : d.abstract.slot = if d.pktValid then some d.pktStore else none := rfl
@[simp] theorem Datapath.abstract_out (d : Datapath) : d.abstract.out = d.out := rfl
@[simp] theorem Datapath.abstract_input (d : Datapath) : d.abstract.input = [] := rfl
@[simp] theorem Datapath.abstract_draws (d : Datapath) : d.abstract.draws = 0 := rfl

/-- The invariant of the registers: both stores have N entries, the counter stays among them, what they stand for meets INV, and
outside AwaitingStart the accumulator is the checksum of the buffer (R31). -/
theorem Datapath.wf_iff (d : Datapath) : d.wf = true ↔
    d.store.length = d.cfg.n ∧ d.pktStore.length = d.cfg.n ∧ d.count ≤ d.cfg.n ∧ d.abstract.Inv ∧
      (d.st ≠ .awaitingStart → d.acc = xorFold d.abstract.buf) := by
  have hn := d.cfg.n_pos
  unfold Datapath.wf
  simp only [Bool.and_eq_true, beq_iff_eq, and_assoc]
  refine and_congr_right fun hstore => and_congr_right fun hpkt => ?_
  have hfull : d.store.take d.cfg.n = d.store := List.take_of_length_le hstore.le
  have hslot : ∀ p, d.abstract.slot = some p → p.length = d.abstract.cfg.n := by
    intro p hp
    cases hv : d.pktValid <;> simp_all
  have hlen : d.abstract.buf.length = min d.count d.cfg.n := by simp [hstore]
  have hnil : d.abstract.buf = [] ↔ d.count = 0 := by
    rw [← List.length_eq_zero_iff, hlen]
    omega
  have hwhole : d.count = d.cfg.n ∧ d.acc = xorFold d.store ↔
      d.count ≤ d.cfg.n ∧ min d.count d.cfg.n = d.cfg.n ∧ d.acc = xorFold (d.store.take d.count) := by
    constructor
    · rintro ⟨hcount, hacc⟩
      exact ⟨hcount.le, by omega, by rw [hcount, hfull, hacc]⟩
    · rintro ⟨hle, hmin, hacc⟩
      have hcount : d.count = d.cfg.n := by omega
      exact ⟨hcount, by rw [hacc, hcount, hfull]⟩
  rw [Raw.inv_iff_forall, hlen, hnil, and_iff_left hslot]
  cases hs : d.st with
  | awaitingStart =>
    simp [hs]
    omega
  | receiving =>
    simp [hs]
    omega
  | awaitingEnd =>
    simpa [hs] using hwhole
  | awaitingChecksum =>
    simpa [hs] using hwhole

/-- One more entry of a store is the entries before it and the one written there. -/
theorem take_succ_set (l : List Byte) (n : Nat) (b : Byte) (h : n < l.length) : (l.set n b).take (n + 1) = l.take n ++ [b] := by
  rw [List.take_succ_eq_append_getElem (by simpa using h), List.getElem_set_self, List.take_set_of_le (Nat.le_refl n)]

theorem Datapath.edgeByte_awaitingStart {d : Datapath} (h : d.st = .awaitingStart) (b : Byte) :
    d.edgeByte b = if b = d.cfg.start then { d with st := .receiving, count := 0, acc := 0#8 } else d := by
  simp only [Datapath.edgeByte, h]

theorem Datapath.edgeByte_receiving {d : Datapath} (h : d.st = .receiving) (b : Byte) :
    d.edgeByte b = { d with
      st := if d.count + 1 = d.cfg.n then .awaitingEnd else .receiving
      count := d.count + 1
      store := d.store.set d.count b
      acc := d.acc ^^^ b } := by
  simp only [Datapath.edgeByte, h]

theorem Datapath.edgeByte_awaitingEnd {d : Datapath} (h : d.st = .awaitingEnd) (b : Byte) :
    d.edgeByte b =
      if b = d.cfg.stop then { d with st := .awaitingChecksum } else { d with st := .awaitingStart, count := 0 } := by
  simp only [Datapath.edgeByte, h]

theorem Datapath.edgeByte_awaitingChecksum {d : Datapath} (h : d.st = .awaitingChecksum) (b : Byte) :
    d.edgeByte b = { d with st := .awaitingStart, count := 0 } := by
  simp only [Datapath.edgeByte, h]

@[simp] theorem Datapath.edgeByte_cfg (d : Datapath) (b : Byte) : (d.edgeByte b).cfg = d.cfg := by
  cases hd : d.st with
  | awaitingStart => rw [Datapath.edgeByte_awaitingStart hd]; split <;> rfl
  | receiving => rw [Datapath.edgeByte_receiving hd]
  | awaitingEnd => rw [Datapath.edgeByte_awaitingEnd hd]; split <;> rfl
  | awaitingChecksum => rw [Datapath.edgeByte_awaitingChecksum hd]

/-- In Receiving the store has room for one more byte. -/
theorem Datapath.count_lt_of_receiving {d : Datapath} (h : d.wf = true) (hst : d.st = .receiving) :
    d.count < d.store.length := by
  obtain ⟨hstore, -, -, hinv, -⟩ := d.wf_iff.mp h
  obtain ⟨⟨-, hrecv, -, -⟩, -⟩ := (Raw.inv_iff_forall _).mp hinv
  have hroom : min d.count d.store.length + 1 ≤ d.cfg.n := by simpa using hrecv hst
  omega

/-- The byte side refines `process`: on contents with the datapath's `st` and `buf` both leave the same. -/
theorem Datapath.edgeByte_refines {d : Datapath} (h : d.wf = true) {u : Raw} (hcfg : u.cfg = d.cfg) (hst : u.st = d.st)
    (hbuf : u.buf = d.abstract.buf) (b : Byte) :
    (u.process b).st = (d.edgeByte b).st ∧ (u.process b).buf = (d.edgeByte b).abstract.buf := by
  cases hd : d.st with
  | awaitingStart =>
    rw [Raw.process_awaitingStart u b (hst.trans hd), Datapath.edgeByte_awaitingStart hd, hcfg]
    by_cases hb : b = d.cfg.start
    · simp [hb]
    · simp [hb, hst, hbuf]
  | receiving =>
    have hlt := Datapath.count_lt_of_receiving h hd
    have hlen : u.buf.length = d.count := by simp [hbuf, hlt.le]
    rw [Raw.process_receiving u b (hst.trans hd), Datapath.edgeByte_receiving hd, hlen, hcfg]
    refine ⟨rfl, ?_⟩
    rw [Datapath.abstract_buf, take_succ_set _ _ _ hlt, hbuf]
    rfl
  | awaitingEnd =>
    rw [Raw.process_awaitingEnd u b (hst.trans hd), Datapath.edgeByte_awaitingEnd hd, hcfg]
    by_cases hb : b = d.cfg.stop
    · simp [hb, hbuf]
    · simp [hb]
  | awaitingChecksum =>
    rw [Raw.process_awaitingChecksum u b (hst.trans hd), Datapath.edgeByte_awaitingChecksum hd]
    exact ⟨rfl, rfl⟩

/-- The byte side keeps the registers' own part of the invariant; the accumulator follows the buffer (R31). -/
theorem Datapath.edgeByte_registers {d : Datapath} (h : d.wf = true) (b : Byte) :
    (d.edgeByte b).store.length = d.cfg.n ∧ (d.edgeByte b).count ≤ d.cfg.n ∧
      ((d.edgeByte b).st ≠ .awaitingStart → (d.edgeByte b).acc = xorFold (d.edgeByte b).abstract.buf) := by
  obtain ⟨hstore, -, hcount, -, hacc⟩ := d.wf_iff.mp h
  cases hd : d.st with
  | awaitingStart =>
    rw [Datapath.edgeByte_awaitingStart hd]
    by_cases hb : b = d.cfg.start
    · simp [hb, hstore, xorFold]
    · simp [hb, hstore, hcount, hd]
  | receiving =>
    have hlt := Datapath.count_lt_of_receiving h hd
    have hfold : d.acc ^^^ b = xorFold ((d.store.set d.count b).take (d.count + 1)) := by
      rw [take_succ_set _ _ _ hlt, hacc (by simp [hd])]
      simp [xorFold]
    rw [Datapath.edgeByte_receiving hd]
    exact ⟨by simpa using hstore, hstore ▸ hlt, fun _ => hfold⟩
  | awaitingEnd =>
    rw [Datapath.edgeByte_awaitingEnd hd]
    by_cases hb : b = d.cfg.stop
    · simpa [hb, hstore, hcount] using hacc (by simp [hd])
    · simp [hb, hstore]
  | awaitingChecksum =>
    rw [Datapath.edgeByte_awaitingChecksum hd]
    simp [hstore]

/-- The byte side's registers after an edge, whether it carries a byte or not. -/
def Datapath.byteSide (d : Datapath) (valid : Bool) (b : Byte) : Datapath := if valid then d.edgeByte b else d

@[simp] theorem Datapath.byteSide_cfg (d : Datapath) (valid : Bool) (b : Byte) : (d.byteSide valid b).cfg = d.cfg := by
  cases valid with
  | false => rfl
  | true => exact d.edgeByte_cfg b

/-- The byte side refines the `st` and `buf` that the two halves of a step leave. -/
theorem Datapath.byteSide_refines {d : Datapath} (h : d.wf = true) (take valid : Bool) (b : Byte) :
    (d.abstract.cycle take (if valid then some b else none)).st = (d.byteSide valid b).st ∧
    (d.abstract.cycle take (if valid then some b else none)).buf = (d.byteSide valid b).abstract.buf := by
  cases valid with
  | false => exact ⟨Raw.takeHalf_st _ _, Raw.takeHalf_buf _ _⟩
  | true => exact Datapath.edgeByte_refines h (Raw.takeHalf_cfg _ _) (Raw.takeHalf_st _ _) (Raw.takeHalf_buf _ _) b

/-- Every edge keeps the byte side's own part of the invariant. -/
theorem Datapath.byteSide_registers {d : Datapath} (h : d.wf = true) (valid : Bool) (b : Byte) :
    (d.byteSide valid b).store.length = d.cfg.n ∧ (d.byteSide valid b).count ≤ d.cfg.n ∧
      ((d.byteSide valid b).st ≠ .awaitingStart → (d.byteSide valid b).acc = xorFold (d.byteSide valid b).abstract.buf) := by
  cases valid with
  | false =>
    obtain ⟨hstore, -, hcount, -, hacc⟩ := d.wf_iff.mp h
    exact ⟨hstore, hcount, hacc⟩
  | true => exact Datapath.edgeByte_registers h b

/-- The slot after `process(b)`: written in AwaitingChecksum only (R108, R109). -/
theorem Raw.process_slot (s : Raw) (b : Byte) : (s.process b).slot =
    if s.st = .awaitingChecksum then (if b = xorFold s.buf then some s.buf else none) else s.slot := by
  cases hst : s.st with
  | awaitingStart =>
    rw [Raw.process_awaitingStart s b hst]
    by_cases hb : b = s.cfg.start <;> simp [hb]
  | receiving =>
    rw [Raw.process_receiving s b hst]
    simp
  | awaitingEnd =>
    rw [Raw.process_awaitingEnd s b hst]
    by_cases hb : b = s.cfg.stop <;> simp [hb]
  | awaitingChecksum =>
    rw [Raw.process_awaitingChecksum s b hst]
    simp

/-- In AwaitingChecksum the whole store is the payload, and the accumulator its checksum. -/
theorem Datapath.wf_awaitingChecksum {d : Datapath} (h : d.wf = true) (hst : d.st = .awaitingChecksum) :
    d.abstract.buf = d.store ∧ d.acc = xorFold d.store := by
  obtain ⟨hstore, -, hcount, hinv, hacc⟩ := d.wf_iff.mp h
  obtain ⟨⟨-, -, -, hcsum⟩, -⟩ := (Raw.inv_iff_forall _).mp hinv
  have hle : d.store.length ≤ d.count := by
    have hlen : min d.count d.store.length = d.cfg.n := by simpa using hcsum hst
    omega
  have hbuf : d.abstract.buf = d.store := List.take_of_length_le hle
  exact ⟨hbuf, by rw [← hbuf]; exact hacc (by simp [hst])⟩

/-- The slot's multiplexer (R134) refines the slot that the two halves of a step leave. -/
theorem Datapath.edgeSlot_refines {d : Datapath} (h : d.wf = true) (take valid : Bool) (b : Byte) :
    (d.abstract.cycle take (if valid then some b else none)).slot =
      if (d.edgeSlot take valid b).1 then some (d.edgeSlot take valid b).2 else none := by
  cases valid with
  | false => cases take <;> simp [Datapath.edgeSlot]
  | true =>
    by_cases hst : d.st = .awaitingChecksum
    · obtain ⟨hbuf, hacc⟩ := Datapath.wf_awaitingChecksum h hst
      rw [Datapath.abstract_buf] at hbuf
      by_cases hb : b = xorFold d.store <;> simp [Raw.process_slot, Datapath.edgeSlot, hst, hbuf, hacc, hb]
    · cases take <;> simp [Raw.process_slot, Datapath.edgeSlot, hst]

/-- The multiplexer loads the slot's store from a store of N entries or keeps it. -/
theorem Datapath.edgeSlot_length {d : Datapath} (h : d.wf = true) (take valid : Bool) (b : Byte) :
    (d.edgeSlot take valid b).2.length = d.cfg.n := by
  obtain ⟨hstore, hpkt, -⟩ := d.wf_iff.mp h
  unfold Datapath.edgeSlot
  split_ifs <;> assumption

/-- The packet that an edge takes is what the consumer half takes. -/
theorem Datapath.takeHalf_taken (d : Datapath) (take : Bool) :
    (if take then d.abstract.slot else none) = if take && d.pktValid then some d.pktStore else none := by
  cases take <;> simp

/-- The flags and the packet of an edge are those of the two halves of a step: the comparators of the byte side raise what the
row selected by R79 raises. -/
theorem Datapath.edgeOut_refines {d : Datapath} (h : d.wf = true) (take valid : Bool) (b : Byte) :
    (d.abstract.cycle take (if valid then some b else none)).out = d.edgeOut take valid b := by
  cases valid with
  | false =>
    simp only [Bool.false_eq_true, if_false, Raw.cycle_none, Raw.takeHalf_out, Datapath.takeHalf_taken]
    rfl
  | true =>
    have hfull : (d.abstract.takeHalf take).slot.isSome = (d.pktValid && !take) := by
      cases take <;> cases hv : d.pktValid <;> simp [hv]
    rw [if_pos rfl, Raw.cycle_some, Raw.process_out (Raw.takeHalf_out _ _), hfull, Raw.takeHalf_select, Datapath.takeHalf_taken]
    cases hd : d.st with
    | awaitingStart =>
      rw [Raw.select_awaitingStart _ b hd, Datapath.abstract_cfg]
      by_cases hb : b = d.cfg.start <;> simp [Datapath.edgeOut, Out.ofRow, beq_eq_decide, hd, hb]
    | receiving =>
      rw [Raw.select_receiving _ b hd]
      by_cases hn : d.abstract.buf.length + 1 = d.abstract.cfg.n
      · rw [if_pos hn]
        simp [Datapath.edgeOut, Out.ofRow, beq_eq_decide, hd]
      · rw [if_neg hn]
        simp [Datapath.edgeOut, Out.ofRow, beq_eq_decide, hd]
    | awaitingEnd =>
      rw [Raw.select_awaitingEnd _ b hd, Datapath.abstract_cfg]
      by_cases hb : b = d.cfg.stop <;> simp [Datapath.edgeOut, Out.ofRow, beq_eq_decide, hd, hb]
    | awaitingChecksum =>
      obtain ⟨hbuf, hacc⟩ := Datapath.wf_awaitingChecksum h hd
      rw [Raw.select_awaitingChecksum _ b hd, hbuf, ← hacc]
      by_cases hb : b = d.acc <;> simp [Datapath.edgeOut, Out.ofRow, beq_eq_decide, hd, hb]

/-- The registers in a clock edge with reset. -/
theorem Datapath.clock_of_rst (d : Datapath) {w : CmdWord} (h : w.rst = true) :
    d.clock w = { d with st := .awaitingStart, count := 0, pktValid := false, out := Out.quiet } := by
  rw [Datapath.clock, if_pos h]

/-- The registers in a clock edge without reset: its three parts. -/
theorem Datapath.clock_of_not_rst (d : Datapath) {w : CmdWord} (h : ¬ w.rst = true) :
    d.clock w = { d.byteSide w.inValid w.inData with
      pktValid := (d.edgeSlot w.pktTake w.inValid w.inData).1
      pktStore := (d.edgeSlot w.pktTake w.inValid w.inData).2
      out := d.edgeOut w.pktTake w.inValid w.inData } := by
  rw [Datapath.clock, if_neg h]
  rfl

/-- One clock edge does to what the registers stand for what the command word does to contents. -/
theorem Datapath.clock_abstract {d : Datapath} (h : d.wf = true) (w : CmdWord) :
    (d.clock w).abstract = d.abstract.applyWord w := by
  by_cases hw : w.rst = true
  · rw [Datapath.clock_of_rst d hw, Raw.applyWord, if_pos hw]
    rfl
  · obtain ⟨hst, hbuf⟩ := Datapath.byteSide_refines h w.pktTake w.inValid w.inData
    have hslot := Datapath.edgeSlot_refines h w.pktTake w.inValid w.inData
    have hout := Datapath.edgeOut_refines h w.pktTake w.inValid w.inData
    rw [Datapath.clock_of_not_rst d hw, Raw.applyWord, if_neg hw]
    exact Raw.eq_of_fields (by simp) hst.symm hbuf.symm hslot.symm hout.symm (by simp) (by simp)

/-- One clock edge keeps the registers' invariant: INV is kept because the command keeps it, the rest by the byte side and by what
the slot's multiplexer loads. -/
theorem Datapath.clock_wf {d : Datapath} (h : d.wf = true) (w : CmdWord) : (d.clock w).wf = true := by
  obtain ⟨hstore, hpkt, -, hinv, -⟩ := d.wf_iff.mp h
  have hinv' : (d.clock w).abstract.Inv := by
    rw [Datapath.clock_abstract h]
    exact Raw.applyWord_inv hinv w
  by_cases hw : w.rst = true
  · rw [Datapath.clock_of_rst d hw] at hinv' ⊢
    exact (Datapath.wf_iff _).mpr ⟨hstore, hpkt, Nat.zero_le _, hinv', fun hne => absurd rfl hne⟩
  · have hslot := Datapath.edgeSlot_length h w.pktTake w.inValid w.inData
    obtain ⟨hstore', hcount', hacc'⟩ := Datapath.byteSide_registers h w.inValid w.inData
    have hn : (d.byteSide w.inValid w.inData).cfg.n = d.cfg.n := by rw [Datapath.byteSide_cfg]
    rw [Datapath.clock_of_not_rst d hw] at hinv' ⊢
    exact (Datapath.wf_iff _).mpr ⟨hstore'.trans hn.symm, hslot.trans hn.symm, hcount'.trans hn.ge, hinv', hacc'⟩

/-- Settles O49: one clock is one command on what the registers stand for, which meets INV before and after. -/
theorem datapathRefinesTheModel : Obligations.DatapathRefinesTheModel := by
  unfold Obligations.DatapathRefinesTheModel
  intro d w h
  obtain ⟨-, -, -, hinv, -⟩ := d.wf_iff.mp h
  obtain ⟨t, ht, hraw⟩ := exec_decodeCommand_completes w { d.abstract with legal := hinv }
  exact ⟨Datapath.clock_wf h w, _, t, rfl, ht, hraw.trans (Datapath.clock_abstract h w).symm⟩

end Sys2Proof.Machine

/-! ## Instruction words (30_encoding.md R75 to R79)

Every command word is the word of its pins, and every transition word that of its three fields; decode, encode and the table's masks
are then stated once, on words written by their fields. -/

namespace Sys2Proof

/-- The bits of a command word, by the pin each comes from (R75). -/
theorem CmdWord.getLsbD_ofPins (r t v : Bool) (d : Byte) {i : Nat} (hi : i < 11) :
    (CmdWord.ofPins r t v d).getLsbD i = if i < 8 then d.getLsbD i else if i = 8 then v else if i = 9 then t else r := by
  simp only [CmdWord.ofPins, BitVec.getLsbD_append, BitVec.getLsbD_ofBool]
  obtain h | rfl | rfl | rfl : i < 8 ∨ i = 8 ∨ i = 9 ∨ i = 10 := by omega
  · simp [h]
  all_goals simp

/-- The bits of a transition word, by the field each comes from. -/
theorem getLsbD_transWord (eq : Bool) (b : Byte) (code : BitVec 2) {i : Nat} (hi : i < 11) :
    (transWord eq b code).getLsbD i = if i < 2 then code.getLsbD i else if i < 10 then b.getLsbD (i - 2) else eq := by
  simp only [transWord, BitVec.getLsbD_append, BitVec.getLsbD_ofBool]
  obtain h | ⟨h, h'⟩ | rfl : i < 2 ∨ (¬ i < 2 ∧ i < 10) ∨ i = 10 := by omega
  · simp [h]
  · have hbyte : i - 2 < 8 := by omega
    simp [h, h', hbyte]
  · simp

@[simp] theorem CmdWord.rst_ofPins (r t v : Bool) (d : Byte) : (CmdWord.ofPins r t v d).rst = r :=
  CmdWord.getLsbD_ofPins r t v d (i := 10) (by decide)

@[simp] theorem CmdWord.pktTake_ofPins (r t v : Bool) (d : Byte) : (CmdWord.ofPins r t v d).pktTake = t :=
  CmdWord.getLsbD_ofPins r t v d (i := 9) (by decide)

@[simp] theorem CmdWord.inValid_ofPins (r t v : Bool) (d : Byte) : (CmdWord.ofPins r t v d).inValid = v :=
  CmdWord.getLsbD_ofPins r t v d (i := 8) (by decide)

@[simp] theorem CmdWord.inData_ofPins (r t v : Bool) (d : Byte) : (CmdWord.ofPins r t v d).inData = d := by
  refine BitVec.eq_of_getLsbD_eq fun i hi => ?_
  rw [CmdWord.inData, BitVec.getLsbD_extractLsb', CmdWord.getLsbD_ofPins _ _ _ _ (by omega)]
  simp [hi]

/-- A command word is what its pins form (R75). -/
theorem CmdWord.ofPins_fields (w : CmdWord) : CmdWord.ofPins w.rst w.pktTake w.inValid w.inData = w := by
  refine BitVec.eq_of_getLsbD_eq fun i hi => ?_
  rw [CmdWord.getLsbD_ofPins _ _ _ _ hi]
  obtain h | rfl | rfl | rfl : i < 8 ∨ i = 8 ∨ i = 9 ∨ i = 10 := by omega
  · simp [CmdWord.inData, h]
  all_goals rfl

@[simp] theorem CmdWord.transSt_transWord (eq : Bool) (b : Byte) (code : BitVec 2) : (transWord eq b code).transSt = code := by
  refine BitVec.eq_of_getLsbD_eq fun i hi => ?_
  rw [CmdWord.transSt, BitVec.getLsbD_extractLsb', getLsbD_transWord _ _ _ (by omega)]
  simp [hi]

@[simp] theorem CmdWord.transByte_transWord (eq : Bool) (b : Byte) (code : BitVec 2) : (transWord eq b code).transByte = b := by
  refine BitVec.eq_of_getLsbD_eq fun i hi => ?_
  have hmiddle : ¬ 2 + i < 2 ∧ 2 + i < 10 := by omega
  rw [CmdWord.transByte, BitVec.getLsbD_extractLsb', getLsbD_transWord _ _ _ (by omega)]
  simp [hi, hmiddle]

@[simp] theorem CmdWord.transEq_transWord (eq : Bool) (b : Byte) (code : BitVec 2) : (transWord eq b code).transEq = eq :=
  getLsbD_transWord eq b code (i := 10) (by decide)

/-- A transition word is what its three fields form. -/
theorem CmdWord.transWord_fields (w : CmdWord) : transWord w.transEq w.transByte w.transSt = w := by
  refine BitVec.eq_of_getLsbD_eq fun i hi => ?_
  rw [getLsbD_transWord _ _ _ hi]
  obtain h | h | rfl : i < 2 ∨ (2 ≤ i ∧ i < 10) ∨ i = 10 := by omega
  · simp [CmdWord.transSt, h]
  · have hbyte : ¬ i < 2 ∧ i - 2 < 8 := by omega
    simp [CmdWord.transByte, h, hbyte]
  · rfl

/-- The canonical word of a command that carries a byte (R76): the pins above the byte are a number of hundreds. -/
theorem ofPins_eq_add (t : Bool) (b : Byte) :
    CmdWord.ofPins false t true b = (if t then 0x300#11 else 0x100#11) + b.setWidth 11 := by
  have hb := b.isLt
  apply BitVec.eq_of_toNat_eq
  rw [CmdWord.ofPins, BitVec.toNat_append, ← Nat.shiftLeft_add_eq_or_of_lt hb, Nat.shiftLeft_eq]
  cases t <;> simp <;> omega

theorem encode_p (b : Byte) : encode (.p b) = ⟨.cmd, CmdWord.ofPins false false true b⟩ :=
  congrArg (Encoded.mk .cmd) (ofPins_eq_add false b).symm

theorem encode_pt (b : Byte) : encode (.pt b) = ⟨.cmd, CmdWord.ofPins false true true b⟩ :=
  congrArg (Encoded.mk .cmd) (ofPins_eq_add true b).symm

/-- The command that the pins ask for (R76). -/
theorem decodeCommand_ofPins (r t v : Bool) (d : Byte) :
    decodeCommand (CmdWord.ofPins r t v d) =
      if r then .rst else if t then (if v then .pt d else .t) else (if v then .p d else .nop) := by
  cases r <;> cases t <;> cases v <;> simp [decodeCommand]

/-- The row's instruction that a transition word holds (R79). -/
theorem decodeTransition_transWord (eq : Bool) (b : Byte) (code : BitVec 2) :
    decodeTransition (transWord eq b code) = (decodeRow code eq).instr b := by
  simp [decodeTransition]

/-- Every row's instruction is encoded by the code and the comparator's output that select it (R79). -/
theorem encode_decodeRow (eq : Bool) (b : Byte) (code : BitVec 2) :
    encode ((decodeRow code eq).instr b) = ⟨.trans, transWord eq b code⟩ := by
  obtain rfl | rfl | rfl | rfl : code = 0b00#2 ∨ code = 0b01#2 ∨ code = 0b10#2 ∨ code = 0b11#2 := by
    revert code
    decide
  all_goals cases eq <;> rfl

/-- Settles O1: the canonical words of the commands are words of pins; those of the rows are decoded by their three fields. -/
theorem decodeEncodeRoundTrip : Obligations.DecodeEncodeRoundTrip := by
  unfold Obligations.DecodeEncodeRoundTrip
  intro i
  cases i with
  | rst => decide
  | nop => decide
  | t => decide
  | p b => rw [encode_p]; exact decodeCommand_ofPins false false true b
  | pt b => rw [encode_pt]; exact decodeCommand_ofPins false true true b
  | t1 b => exact decodeTransition_transWord true b 0b00#2
  | t2 b => exact decodeTransition_transWord false b 0b00#2
  | t3 b => exact decodeTransition_transWord false b 0b01#2
  | t4 b => exact decodeTransition_transWord true b 0b01#2
  | t5 b => exact decodeTransition_transWord true b 0b10#2
  | t6 b => exact decodeTransition_transWord false b 0b10#2
  | t7a b => exact decodeTransition_transWord true b 0b11#2
  | t7b b => exact decodeTransition_transWord false b 0b11#2

/-- The table's mask of `RST` keeps the pin `rst` (R76). -/
theorem ofPins_and_rstMask (r t v : Bool) (d : Byte) : CmdWord.ofPins r t v d &&& 0x400#11 = CmdWord.ofPins r false false 0#8 := by
  refine BitVec.eq_of_getLsbD_eq fun i hi => ?_
  rw [BitVec.getLsbD_and, CmdWord.getLsbD_ofPins _ _ _ _ hi, CmdWord.getLsbD_ofPins _ _ _ _ hi]
  interval_cases i <;> simp

/-- The table's mask of the other commands keeps the three control pins (R76). -/
theorem ofPins_and_controlMask (r t v : Bool) (d : Byte) : CmdWord.ofPins r t v d &&& 0x700#11 = CmdWord.ofPins r t v 0#8 := by
  refine BitVec.eq_of_getLsbD_eq fun i hi => ?_
  rw [BitVec.getLsbD_and, CmdWord.getLsbD_ofPins _ _ _ _ hi, CmdWord.getLsbD_ofPins _ _ _ _ hi]
  interval_cases i <;> simp

/-- Words of pins are equal when the pins are. -/
theorem ofPins_inj {r r' t t' v v' : Bool} {d d' : Byte} :
    CmdWord.ofPins r t v d = CmdWord.ofPins r' t' v' d' ↔ r = r' ∧ t = t' ∧ v = v' ∧ d = d' := by
  constructor
  · intro h
    exact ⟨by simpa using congrArg CmdWord.rst h, by simpa using congrArg CmdWord.pktTake h,
      by simpa using congrArg CmdWord.inValid h, by simpa using congrArg CmdWord.inData h⟩
  · rintro ⟨rfl, rfl, rfl, rfl⟩
    rfl

/-- The row of `RST` matches a word by its pin `rst` (R76). -/
theorem matches_rst_iff (w : CmdWord) : w &&& 0x400#11 = 0x400#11 ↔ w.rst = true := by
  conv_lhs => rw [← w.ofPins_fields, ofPins_and_rstMask, show 0x400#11 = CmdWord.ofPins true false false 0#8 by decide]
  simp [ofPins_inj]

/-- The row of another command matches a word by its three control pins (R76). -/
theorem matches_control_iff (w : CmdWord) (t v : Bool) :
    w &&& 0x700#11 = CmdWord.ofPins false t v 0#8 ↔ w.rst = false ∧ w.pktTake = t ∧ w.inValid = v := by
  conv_lhs => rw [← w.ofPins_fields, ofPins_and_controlMask]
  simp [ofPins_inj]

/-- The low byte of a command word is the byte on the pins. -/
theorem setWidth_eq_inData (w : CmdWord) : w.setWidth 8 = w.inData := BitVec.setWidth_eq_extractLsb' (by decide)

/-- Settles O2: each row matches by the pins that its command is decoded from, and the pins of a word match one row. -/
theorem commandDecodeFollowsTheTable : Obligations.CommandDecodeFollowsTheTable := by
  unfold Obligations.CommandDecodeFollowsTheTable
  refine ⟨fun w => ?_, rfl, rfl, rfl, fun b => ⟨rfl, rfl⟩⟩
  have hrst := matches_rst_iff w
  have hnop : w &&& 0x700#11 = 0x000#11 ↔ _ := matches_control_iff w false false
  have hp : w &&& 0x700#11 = 0x100#11 ↔ _ := matches_control_iff w false true
  have ht : w &&& 0x700#11 = 0x200#11 ↔ _ := matches_control_iff w true false
  have hpt : w &&& 0x700#11 = 0x300#11 ↔ _ := matches_control_iff w true true
  simp only [beq_eq_decide, hrst, hnop, hp, ht, hpt, setWidth_eq_inData]
  refine ⟨?rst, ?nop, ?p, ?t, ?pt, ?one⟩
  case one => cases w.rst <;> cases w.pktTake <;> cases w.inValid <;> rfl
  all_goals
    intro h
    simp [decodeCommand, h]

/-- Settles O3: encoding what the pins decode to gives the pins, without the byte and what `RST` ignores. -/
theorem encodeDecodeIsCanonical : Obligations.EncodeDecodeIsCanonical := by
  unfold Obligations.EncodeDecodeIsCanonical
  refine ⟨fun w => ?cmd, fun w => ?trans⟩
  case cmd =>
    change _ = Encoded.mk .cmd (if w.rst then 0x400#11 else if w.inValid then w else w &&& 0x700#11)
    obtain ⟨r, t, v, d, rfl⟩ : ∃ r t v d, w = CmdWord.ofPins r t v d := ⟨_, _, _, _, w.ofPins_fields.symm⟩
    rw [decodeCommand_ofPins, ofPins_and_controlMask]
    cases r with
    | true => simp [encode]
    | false => cases v with
      | true => cases t <;> simp [encode_p, encode_pt]
      | false => cases t <;> simp <;> decide
  case trans =>
    conv_rhs => rw [← w.transWord_fields]
    exact encode_decodeRow w.transEq w.transByte w.transSt

/-- A number of at most eleven bits is read as a command word from a long table row. -/
theorem decodeTableWord_command {w : Nat} (h : w < 2048) : decodeTableWord 16 w = some (decodeCommand (BitVec.ofNat 11 w)) := by
  simp [decodeTableWord, decodeNumber, formatOfBits, h, Except.toOption]

/-- A wider number is rejected (assumption 10). -/
theorem decodeTableWord_wide (nbits : Nat) {w : Nat} (h : 2048 ≤ w) : decodeTableWord nbits w = none := by
  simp [decodeTableWord, decodeNumber, Nat.not_lt.mpr h, Except.toOption]

/-- Settles O4: a sample word is decoded as the pins it stands for. -/
theorem sampleWordsDecode : Obligations.SampleWordsDecode := by
  unfold Obligations.SampleWordsDecode
  refine ⟨?_, ?_, ?_, ?_, ?_, ?_, decodeTableWord_wide 16 (by decide), rfl, rfl, rfl, rfl⟩
  all_goals
    rw [decodeTableWord_command (by decide)]
    decide

end Sys2Proof

/-! ## Commands and rows (30_encoding.md R76, R79) -/

namespace Sys2Proof

/-- Every instruction is a command or a row of the transition table with its byte. -/
theorem Instr.command_or_row (i : Instr) : i.isCommand = true ∨ ∃ (r : Row) (b : Byte), i = r.instr b := by
  cases i with
  | rst => exact .inl rfl
  | nop => exact .inl rfl
  | p b => exact .inl rfl
  | t => exact .inl rfl
  | pt b => exact .inl rfl
  | t1 b => exact .inr ⟨.T1, b, rfl⟩
  | t2 b => exact .inr ⟨.T2, b, rfl⟩
  | t3 b => exact .inr ⟨.T3, b, rfl⟩
  | t4 b => exact .inr ⟨.T4, b, rfl⟩
  | t5 b => exact .inr ⟨.T5, b, rfl⟩
  | t6 b => exact .inr ⟨.T6, b, rfl⟩
  | t7a b => exact .inr ⟨.T7a, b, rfl⟩
  | t7b b => exact .inr ⟨.T7b, b, rfl⟩

/-- Every command is what some command word decodes to: its canonical word. -/
theorem Instr.exists_word {i : Instr} (h : i.isCommand = true) : ∃ w : CmdWord, decodeCommand w = i := by
  have hround := decodeEncodeRoundTrip i
  cases i with
  | rst => exact ⟨_, hround⟩
  | nop => exact ⟨_, hround⟩
  | p b => exact ⟨_, hround⟩
  | t => exact ⟨_, hround⟩
  | pt b => exact ⟨_, hround⟩
  | _ => cases h

/-- The word that presents a byte is decoded as `P` of that byte. -/
@[simp] theorem decodeCommand_byteWord (b : Byte) : decodeCommand (CmdWord.ofPins false false true b) = .p b :=
  decodeCommand_ofPins false false true b

end Sys2Proof

namespace Sys2Proof.Machine

/-! ## The selector (30_encoding.md R79) -/

/-- Settles O8: each value of `st` has its two rows, told apart by its comparator. In Receiving, INV says that `len + 1` is at most N. -/
theorem selectorFollowsTheTransitionTable : Obligations.SelectorFollowsTheTransitionTable := by
  unfold Obligations.SelectorFollowsTheTransitionTable
  intro s b
  obtain ⟨⟨-, hrecv, -, -⟩, -⟩ := (Raw.inv_iff_forall s.toRaw).mp s.legal
  cases hst : s.st with
  | awaitingStart =>
    rw [Raw.select_awaitingStart _ b hst]
    by_cases hb : b = s.cfg.start <;> simp [hb]
  | receiving =>
    have hle := hrecv hst
    rw [Raw.select_receiving _ b hst]
    by_cases hn : s.buf.length + 1 = s.cfg.n
    · simp [hn]
    · simp [hn]
      omega
  | awaitingEnd =>
    rw [Raw.select_awaitingEnd _ b hst]
    by_cases hb : b = s.cfg.stop <;> simp [hb]
  | awaitingChecksum =>
    rw [Raw.select_awaitingChecksum _ b hst]
    by_cases hb : b = xorFold s.buf <;> simp [hb]

/-! ## What completes (30_encoding.md R80, 60_exceptions.md R196) -/

/-- Every command completes in every state. -/
theorem exec_command_completes {i : Instr} (h : i.isCommand = true) (s : State) : ∃ t, exec i s = .next t := by
  obtain ⟨w, rfl⟩ := Instr.exists_word h
  obtain ⟨t, ht, -⟩ := exec_decodeCommand_completes w s
  exact ⟨t, ht⟩

/-- Settles O27: a command is what a command word decodes to, and so is what a step executes. -/
theorem everyCommandCompletes : Obligations.EveryCommandCompletes := by
  unfold Obligations.EveryCommandCompletes
  intro s
  obtain ⟨t, ht, -⟩ := exec_decodeCommand_completes s.fetch.1 s.fetch.2
  exact ⟨fun i h => exec_command_completes h s, t, ht⟩

/-- `P b` completes with the effect of `process(b)`. -/
theorem exec_p_completes (s : State) (b : Byte) : Completes (exec (.p b) s) (s.fresh.process b) :=
  completes_ofRaw (Raw.process_inv (Raw.fresh_inv_of_inv s.legal) b)

/-- A selected row is what `P b` performs (R100). -/
theorem exec_row_eq_exec_p {s : State} {b : Byte} {r : Row} (h : s.select b = r) : exec (r.instr b) s = exec (.p b) s := by
  rw [exec_row_of_selected h, exec_p]

/-- Settles O7: the selected row on its own is `process(b)`, which takes nothing; the other rows are refused. -/
theorem processPerformsTheSelectedRow : Obligations.ProcessPerformsTheSelectedRow := by
  unfold Obligations.ProcessPerformsTheSelectedRow
  intro s b
  obtain ⟨t, ht, hraw⟩ := exec_p_completes s b
  exact ⟨(exec_row_eq_exec_p rfl).symm, ⟨t, ht, by simp [hraw]⟩, fun r hr => exec_row_of_not_selected hr.symm⟩

/-! ## Staging (assumption 15) -/

/-- A step runs the word presented last, on the state as it was. -/
theorem step_present (s : State) (w : CmdWord) :
    step (s.present w) = exec (decodeCommand w) { s with draws := s.draws + 1, legal := s.legal } :=
  stepRunsTheDecodedCommand.1 (s.present w) w s.input rfl

/-- `s` can be staged for row `r` and the byte `b`: staging presents `P b` in a state where R79 selects the row, and neither the
configuration nor the slot nor the host's stream has changed. -/
def State.Stages (s : State) (r : Row) (b : Byte) : Prop :=
  ∃ v : State, v.cfg = s.cfg ∧ v.slot = s.slot ∧ v.input = s.input ∧ v.select b = r ∧
    s.stageRow r b = v.present (CmdWord.ofPins false false true b)

/-- Other values of `st` and `buf` that fit together keep INV: the slot is as it was. -/
theorem State.inv_of_lenLegal (s : State) {st : SeqState} {buf : Packet}
    (h : ({ s.toRaw with st := st, buf := buf } : Raw).lenLegal = true) : ({ s.toRaw with st := st, buf := buf } : Raw).Inv := by
  obtain ⟨-, hslot⟩ := (Raw.inv_iff s.toRaw).mp s.legal
  exact (Raw.inv_iff _).mpr ⟨h, hslot⟩

/-- Staging works where the contents that `stageRow` places fit together and select the row. -/
theorem State.stages_of_place {s : State} {r : Row} {b : Byte} {st : SeqState} {buf : Packet}
    (hstage : s.stageRow r b =
      (s.place { s.toRaw with st := st, buf := buf }).present (CmdWord.ofPins false false true b))
    (hlen : ({ s.toRaw with st := st, buf := buf } : Raw).lenLegal = true)
    (hselect : ({ s.toRaw with st := st, buf := buf } : Raw).select b = r) : s.Stages r b := by
  refine ⟨{ ({ s.toRaw with st := st, buf := buf } : Raw) with legal := s.inv_of_lenLegal hlen }, rfl, rfl, rfl, hselect, ?_⟩
  rw [hstage, State.place_of_inv (s.inv_of_lenLegal hlen)]

/-- Zero bytes add nothing to a checksum. -/
@[simp] theorem xorFold_replicate_zero (k : Nat) : xorFold (List.replicate k 0#8) = 0#8 := by
  induction k with
  | zero => rfl
  | succ k ih => rw [List.replicate_succ, xorFold_cons, ih, BitVec.xor_zero]

/-- A byte differs from itself with its lowest bit changed. -/
theorem ne_xor_one (b : Byte) : b ≠ b ^^^ 1#8 := by
  intro h
  have hbit := congrArg (BitVec.getLsbD · 0) h
  simp at hbit

/-- Every row that is well-formed for the configuration can be staged (R79). -/
theorem State.stages_of_wellFormed {s : State} {r : Row} {b : Byte} (h : (r.instr b).WellFormed s.cfg) : s.Stages r b := by
  have hn := s.cfg.n_pos
  have hpred : s.cfg.n - 1 + 1 = s.cfg.n := by omega
  have hne := ne_xor_one b
  cases r with
  | T1 =>
    have hb : b = s.cfg.start := eq_of_beq h
    exact State.stages_of_place rfl rfl (by simp [Raw.select_awaitingStart, hb])
  | T2 =>
    have hb : b ≠ s.cfg.start := bne_iff_ne.mp h
    exact State.stages_of_place rfl rfl (by simp [Raw.select_awaitingStart, hb])
  | T3 =>
    have htwo : 2 ≤ s.cfg.n := of_decide_eq_true h
    have hshort : 1 ≠ s.cfg.n := by omega
    refine State.stages_of_place rfl ?_ ?_
    · simp [Raw.lenLegal_iff, hn]
    · simp [Raw.select_receiving, hshort]
  | T4 =>
    refine State.stages_of_place rfl ?_ ?_
    · simp [Raw.lenLegal_iff, hpred]
    · simp [Raw.select_receiving, hpred]
  | T5 =>
    have hb : b = s.cfg.stop := eq_of_beq h
    refine State.stages_of_place rfl ?_ ?_
    · simp [Raw.lenLegal_iff]
    · simp [Raw.select_awaitingEnd, hb]
  | T6 =>
    have hb : b ≠ s.cfg.stop := bne_iff_ne.mp h
    refine State.stages_of_place rfl ?_ ?_
    · simp [Raw.lenLegal_iff]
    · simp [Raw.select_awaitingEnd, hb]
  | T7a =>
    refine State.stages_of_place rfl ?_ ?_
    · simp [Raw.lenLegal_iff, hpred]
    · simp [Raw.select_awaitingChecksum, xorFold_cons]
  | T7b =>
    refine State.stages_of_place rfl ?_ ?_
    · simp [Raw.lenLegal_iff, hpred]
    · simp [Raw.select_awaitingChecksum, xorFold_cons, hne]

/-- The step after staging performs the row, and completes. -/
theorem State.Stages.step {s : State} {r : Row} {b : Byte} (h : s.Stages r b) :
    ∃ u t : State, u.cfg = s.cfg ∧ u.slot = s.slot ∧ u.input = s.input ∧
      Machine.step (s.stageRow r b) = exec (r.instr b) u ∧ exec (r.instr b) u = .next t := by
  obtain ⟨v, hcfg, hslot, hinput, hselect, hstage⟩ := h
  obtain ⟨t, ht, -⟩ := exec_p_completes { v with draws := v.draws + 1, legal := v.legal } b
  have hrow := exec_row_eq_exec_p (s := { v with draws := v.draws + 1, legal := v.legal }) hselect
  refine ⟨{ v with draws := v.draws + 1, legal := v.legal }, t, hcfg, hslot, hinput, ?_, hrow.trans ht⟩
  rw [hstage, step_present, decodeCommand_byteWord, hrow]

/-- Settles O6: a command word is presented as it is; a row is presented as `P b` where it is selected. -/
theorem stagedInstructionRunsNext : Obligations.StagedInstructionRunsNext := by
  unfold Obligations.StagedInstructionRunsNext
  refine ⟨fun s w hw => ?_, fun s r b h => (State.stages_of_wellFormed h).step⟩
  have hstage : s.withFetchWord 16 w = s.present (BitVec.ofNat 11 w) := if_pos hw
  rw [hstage, step_present]

/-! ## Well-formedness (assumption 18) -/

/-- A row that is selected is well-formed: its predicate holds, and so the part of it that reads the byte and `cfg` only. -/
theorem wellFormed_of_select {s : State} {r : Row} {b : Byte} (h : s.select b = r) : (r.instr b).WellFormed s.cfg := by
  obtain ⟨h1, h2, h3, -, h5, h6, -, -⟩ := selectorFollowsTheTransitionTable s b
  cases r with
  | T1 => exact beq_iff_eq.mpr (h1.mp h).2
  | T2 => exact bne_iff_ne.mpr (h2.mp h).2
  | T3 =>
    obtain ⟨-, hlt⟩ := h3.mp h
    exact decide_eq_true (by omega)
  | T4 => rfl
  | T5 => exact beq_iff_eq.mpr (h5.mp h).2
  | T6 => exact bne_iff_ne.mpr (h6.mp h).2
  | T7a => rfl
  | T7b => rfl

/-- No command is ill-formed. -/
theorem wellFormed_of_isCommand {i : Instr} (h : i.isCommand = true) (cfg : Config) : i.WellFormed cfg := by
  cases i with
  | rst | nop | p | t | pt => rfl
  | _ => cases h

/-- Settles O34: a command completes everywhere and is well-formed; a row completes where it is selected, which staging reaches exactly
for the well-formed ones. -/
theorem wellFormedMeansItCanOccur : Obligations.WellFormedMeansItCanOccur := by
  unfold Obligations.WellFormedMeansItCanOccur
  intro cfg i
  obtain hcommand | ⟨r, b, rfl⟩ := i.command_or_row
  · obtain ⟨t, ht⟩ := exec_command_completes hcommand (State.resetOf cfg)
    exact ⟨fun _ => ⟨_, t, State.resetOf_cfg cfg, ht⟩, fun _ => wellFormed_of_isCommand hcommand cfg⟩
  · constructor
    · intro h
      obtain ⟨u, t, hcfg, -, -, -, ht⟩ := (State.stages_of_wellFormed (s := State.resetOf cfg) h).step
      exact ⟨u, t, hcfg, ht⟩
    · rintro ⟨s, t, rfl, ht⟩
      rw [exec_row, State.performRow_eq_next] at ht
      obtain ⟨hselect, -⟩ := ht
      exact wellFormed_of_select hselect

end Sys2Proof.Machine

namespace Sys2Proof.Machine

/-! ## Receiving bytes (30_encoding.md R86, 20_memory.md R58)

`Raw.receive` is the effect of a list of bytes on contents, `process` byte by byte. `runCommands_scriptBytes` ties it to the commands
`P b` and `coreRun_byteWords` to the machine's own steps over the words that present the bytes. -/

/-- The effect of the bytes `bs`, each in a step of its own. -/
def Raw.receive (s : Raw) (bs : List Byte) : Raw := bs.foldl (fun u b => u.fresh.process b) s

@[simp] theorem Raw.receive_nil (s : Raw) : s.receive [] = s := rfl

@[simp] theorem Raw.receive_cons (s : Raw) (b : Byte) (bs : List Byte) :
    s.receive (b :: bs) = (s.fresh.process b).receive bs := rfl

theorem Raw.receive_append (s : Raw) (bs cs : List Byte) : s.receive (bs ++ cs) = (s.receive bs).receive cs :=
  List.foldl_append

/-- The commands `P b0; ...; P bk` complete with the effect of their bytes. -/
theorem runCommands_scriptBytes (s : State) (bs : List Byte) :
    Completes (runCommands (scriptBytes bs) s) (s.toRaw.receive bs) := by
  induction bs generalizing s with
  | nil => exact ⟨s, rfl, rfl⟩
  | cons b bs ih =>
    obtain ⟨t, ht, hraw⟩ := exec_p_completes s b
    have hrest := ih t
    rw [hraw] at hrest
    rw [Raw.receive_cons, scriptBytes, List.map_cons, runCommands_cons ht]
    exact hrest

/-- The contents `s` with other values of the model's own fields (assumptions 2 and 4). -/
def Raw.withStream (s : Raw) (input : List CmdWord) (draws : Nat) : Raw := { s with input := input, draws := draws }

/-- What `process` does neither reads nor writes the model's own fields. -/
theorem Raw.process_withStream (s : Raw) (input : List CmdWord) (draws : Nat) (b : Byte) :
    (s.withStream input draws).process b = (s.process b).withStream input draws := by
  have hselect : (s.withStream input draws).select b = s.select b := rfl
  rw [Raw.process, Raw.process, hselect]
  cases s.select b with
  | T7a => cases hs : s.slot <;> simp [Raw.applyRow, Raw.acceptFrame, Raw.raiseDropIfFull, Raw.withStream, hs] <;> rfl
  | T7b => cases hs : s.slot <;> simp [Raw.applyRow, Raw.rejectChecksum, Raw.raiseDropIfFull, Raw.withStream, hs] <;> rfl
  | _ => rfl

theorem Raw.receive_withStream (s : Raw) (input : List CmdWord) (draws : Nat) (bs : List Byte) :
    (s.withStream input draws).receive bs = (s.receive bs).withStream input draws := by
  induction bs generalizing s with
  | nil => rfl
  | cons b bs ih =>
    have hfresh : (s.withStream input draws).fresh = s.fresh.withStream input draws := rfl
    rw [Raw.receive_cons, Raw.receive_cons, hfresh, Raw.process_withStream, ih]

/-- One step where the host presents the byte `b`. -/
theorem step_byteWord {s : State} {b : Byte} {ws : List CmdWord} (h : s.input = CmdWord.ofPins false false true b :: ws) :
    Completes (step s) ((s.fresh.process b).withStream ws (s.draws + 1)) := by
  rw [stepRunsTheDecodedCommand.1 s _ ws h, decodeCommand_byteWord]
  have hp := exec_p_completes { s with input := ws, draws := s.draws + 1, legal := s.legal } b
  rw [← Raw.process_withStream]
  exact hp

/-- The machine's own steps over the words that present `bs` have the effect of the bytes, and consume the words. -/
theorem coreRun_byteWords {s : State} {bs : List Byte} {rest : List CmdWord} (h : s.input = byteWords bs ++ rest) :
    Completes (Host.Core.run Sys2Proof.core bs.length s) ((s.toRaw.receive bs).withStream rest (s.draws + bs.length)) := by
  induction bs generalizing s with
  | nil => exact ⟨s, rfl, congrArg (s.toRaw.withStream · s.draws) h⟩
  | cons b bs ih =>
    obtain ⟨t, ht, hraw⟩ := step_byteWord h
    have hrest := ih (s := t) (by rw [hraw]; rfl)
    have hdraws : t.draws + bs.length = s.draws + (bs.length + 1) := by
      rw [hraw]
      exact Nat.add_right_comm _ _ _
    have hrun : Host.Core.run Sys2Proof.core (bs.length + 1) s = Host.Core.run Sys2Proof.core bs.length t := by
      simp only [Host.Core.run, show Sys2Proof.core.step s = .next t from ht]
    rw [hdraws, hraw, Raw.receive_withStream] at hrest
    rw [List.length_cons, hrun]
    exact hrest

/-! ## A frame, byte by byte (40_process.md R113, R70) -/

/-- After START and at most N further bytes these are the buffer, whatever they are; the output record apart, nothing else has
changed. -/
theorem Raw.receive_start_payload {s : Raw} (hst : s.st = .awaitingStart) {p : Packet} (h : p.length ≤ s.cfg.n) :
    (s.receive (s.cfg.start :: p)).fresh =
      { s.fresh with buf := p, st := if p.length = s.cfg.n then .awaitingEnd else .receiving } := by
  induction p using List.reverseRecOn with
  | nil =>
    have hn : 0 ≠ s.cfg.n := Nat.ne_of_lt s.cfg.n_pos
    rw [Raw.receive_cons, Raw.process_awaitingStart s.fresh _ hst]
    simp [Raw.fresh, hn]
  | append_singleton p b ih =>
    rw [List.length_append, List.length_singleton] at h ⊢
    have hlt : p.length ≠ s.cfg.n := by omega
    rw [← List.cons_append, Raw.receive_append, Raw.receive_cons, ih (by omega), if_neg hlt, Raw.process_receiving _ _ rfl]
    rfl

/-- A wire frame leaves its payload in the slot, with `Accept`, and `Drop` exactly over a pending packet (R108). -/
theorem Raw.receive_frameBytes {s : Raw} (hst : s.st = .awaitingStart) {p : Packet} (h : p.length = s.cfg.n) :
    s.receive (frameBytes s.cfg p) = { s with
      slot := some p, buf := [], st := .awaitingStart
      out := { Out.quiet with accept := true, drop := s.slot.isSome } } := by
  have hpayload := Raw.receive_start_payload hst h.le
  rw [if_pos h] at hpayload
  rw [frameBytes, ← List.cons_append, Raw.receive_append, Raw.receive_cons, hpayload, Raw.process_awaitingEnd _ _ rfl]
  simp only [Raw.fresh_cfg, if_true, Raw.receive_cons, Raw.receive_nil]
  rw [Raw.process_awaitingChecksum _ _ rfl]
  cases hs : s.slot <;> simp [Raw.fresh, Out.raise, hs]

/-- Settles O40: the commands have the effect of START and the bytes. -/
theorem payloadIsReceivedByPosition : Obligations.PayloadIsReceivedByPosition := by
  unfold Obligations.PayloadIsReceivedByPosition
  intro p s hst h
  obtain ⟨t, ht, hraw⟩ := runCommands_scriptBytes s (s.cfg.start :: p)
  have hfresh := Raw.receive_start_payload hst h
  rw [← hraw] at hfresh
  exact ⟨t, ht, congrArg Raw.buf hfresh, (congrArg Raw.slot hfresh :), congrArg Raw.st hfresh⟩

/-- The steps of a frame on the wire: START, N bytes, END, checksum (00_scope.md R10). -/
theorem length_frameBytes {cfg : Config} {p : Packet} (h : p.length = cfg.n) : (frameBytes cfg p).length = frameLength cfg := by
  simp [frameBytes, frameLength, h]

/-- Settles O41: the machine's steps over a frame's words have the effect of its bytes; then one take empties the slot. -/
theorem frameRoundTrip : Obligations.FrameRoundTrip := by
  unfold Obligations.FrameRoundTrip
  intro s p rest hst h hinput
  obtain ⟨t, ht, hraw⟩ := coreRun_byteWords hinput
  rw [Raw.receive_frameBytes hst h, length_frameBytes h] at hraw
  rw [length_frameBytes h] at ht
  obtain ⟨u, hu, huraw⟩ := exec_t_completes t
  obtain ⟨v, hv, hvraw⟩ := exec_t_completes u
  exact ⟨t, u, v, ht, hraw, hu, by simp [huraw, hraw, Raw.withStream], hv, by simp [hvraw, huraw],
    by simp [hvraw, huraw, hraw, Raw.withStream]⟩

/-! ## The frame in progress (40_process.md R112)

The bytes of the stream that the current values of `st` and `buf` record, START first. They are always the last bytes of the stream
of a run that began in AwaitingStart. -/

/-- The part of a wire frame received so far: none in AwaitingStart. -/
def Raw.partialFrame (s : Raw) : List Byte :=
  match s.st with
  | .awaitingStart => []
  | .receiving => s.cfg.start :: s.buf
  | .awaitingEnd => s.cfg.start :: s.buf
  | .awaitingChecksum => s.cfg.start :: (s.buf ++ [s.cfg.stop])

theorem Raw.partialFrame_awaitingStart {s : Raw} (h : s.st = .awaitingStart) : s.partialFrame = [] := by
  unfold Raw.partialFrame; rw [h]

theorem Raw.partialFrame_receiving {s : Raw} (h : s.st = .receiving) : s.partialFrame = s.cfg.start :: s.buf := by
  unfold Raw.partialFrame; rw [h]

theorem Raw.partialFrame_awaitingEnd {s : Raw} (h : s.st = .awaitingEnd) : s.partialFrame = s.cfg.start :: s.buf := by
  unfold Raw.partialFrame; rw [h]

theorem Raw.partialFrame_awaitingChecksum {s : Raw} (h : s.st = .awaitingChecksum) :
    s.partialFrame = s.cfg.start :: (s.buf ++ [s.cfg.stop]) := by
  unfold Raw.partialFrame; rw [h]

/-- The consumer half leaves the frame in progress alone. -/
theorem Raw.takeHalf_partialFrame (s : Raw) (take : Bool) : (s.takeHalf take).partialFrame = s.partialFrame := by
  cases take <;> rfl

/-- `process(b)` extends the frame in progress by `b`, or drops it. -/
theorem Raw.process_partialFrame_suffix (s : Raw) (b : Byte) : (s.process b).partialFrame <:+ s.partialFrame ++ [b] := by
  cases hst : s.st with
  | awaitingStart =>
    rw [Raw.process_awaitingStart s b hst, Raw.partialFrame_awaitingStart hst]
    by_cases hb : b = s.cfg.start
    · rw [if_pos hb, Raw.partialFrame_receiving rfl, hb]
      exact List.suffix_rfl
    · rw [if_neg hb, Raw.partialFrame_awaitingStart hst]
      exact List.nil_suffix
  | receiving =>
    rw [Raw.process_receiving s b hst, Raw.partialFrame_receiving hst]
    by_cases hn : s.buf.length + 1 = s.cfg.n
    · rw [if_pos hn, Raw.partialFrame_awaitingEnd rfl]
      exact List.suffix_rfl
    · rw [if_neg hn, Raw.partialFrame_receiving rfl]
      exact List.suffix_rfl
  | awaitingEnd =>
    rw [Raw.process_awaitingEnd s b hst, Raw.partialFrame_awaitingEnd hst]
    by_cases hb : b = s.cfg.stop
    · rw [if_pos hb, Raw.partialFrame_awaitingChecksum rfl, hb]
      exact List.suffix_rfl
    · rw [if_neg hb, Raw.partialFrame_awaitingStart rfl]
      exact List.nil_suffix
  | awaitingChecksum =>
    rw [Raw.process_awaitingChecksum s b hst, Raw.partialFrame_awaitingStart rfl]
    exact List.nil_suffix

/-- Every instruction but `RST` extends the frame in progress by the byte it carries, or drops it. -/
theorem exec_next_partialFrame_suffix {i : Instr} {s t : State} (hi : i ≠ .rst) (h : exec i s = .next t) :
    t.partialFrame <:+ s.partialFrame ++ i.byte.toList := by
  rw [exec_next_cycle hi h, ← Raw.takeHalf_partialFrame s.toRaw i.takes]
  cases i.byte with
  | none => simp
  | some b => exact Raw.process_partialFrame_suffix _ b

/-- The stream bytes of a run, one instruction at a time. -/
theorem streamBytes_cons (i : Instr) (is : List Instr) : streamBytes (i :: is) = i.byte.toList ++ streamBytes is := by
  cases h : i.byte <;> simp [streamBytes, h]

theorem streamBytes_append (is js : List Instr) : streamBytes (is ++ js) = streamBytes is ++ streamBytes js :=
  List.filterMap_append

/-- All that a run's first instruction can do when the run completes. -/
theorem runCommands_cons_eq_next {i : Instr} {is : List Instr} {s t : State} (h : runCommands (i :: is) s = .next t) :
    ∃ u, exec i s = .next u ∧ runCommands is u = .next t := by
  cases hx : exec i s with
  | next u => exact ⟨u, rfl, (runCommands_cons hx is).symm.trans h⟩
  | fault f => cases f
  | refused e => simp [runCommands, hx] at h

/-- The frame in progress after a run without `RST` is the end of the frame in progress before it and the run's stream. -/
theorem runCommands_partialFrame_suffix {is : List Instr} {s t : State} (his : ∀ j ∈ is, j ≠ .rst)
    (h : runCommands is s = .next t) : t.partialFrame <:+ s.partialFrame ++ streamBytes is := by
  induction is generalizing s with
  | nil => cases h; simp [streamBytes]
  | cons i is ih =>
    obtain ⟨hi, his⟩ := List.forall_mem_cons.mp his
    obtain ⟨u, hu, hrun⟩ := runCommands_cons_eq_next h
    have hstep : u.partialFrame ++ streamBytes is <:+ s.partialFrame ++ i.byte.toList ++ streamBytes is :=
      List.suffix_append_self_iff.mpr (exec_next_partialFrame_suffix hi hu)
    rw [streamBytes_cons, ← List.append_assoc]
    exact (ih his hrun).trans hstep

/-- No run writes the configuration (10_state.md R20). -/
theorem runCommands_cfg {is : List Instr} {s t : State} (h : runCommands is s = .next t) : t.cfg = s.cfg := by
  induction is generalizing s with
  | nil => cases h; rfl
  | cons i is ih =>
    obtain ⟨u, hu, hrun⟩ := runCommands_cons_eq_next h
    obtain ⟨hcfg, -, -⟩ := exec_next_frame hu
    exact (ih hrun).trans hcfg

/-- `Accept` is raised in AwaitingChecksum by the checksum of the buffer, which is then in the slot (R108). -/
theorem exec_next_of_accept {i : Instr} {s t : State} (h : exec i s = .next t) (haccept : t.out.accept = true) :
    s.st = .awaitingChecksum ∧ i.byte = some (xorFold s.buf) ∧ t.slot = some s.buf := by
  obtain ⟨-, hflag, -⟩ := outputRecordOfEveryInstruction i s t h
  obtain ⟨b, hbyte, hselect⟩ := Option.map_eq_some_iff.mp (hflag.mp haccept)
  obtain ⟨-, -, -, -, -, -, h7a, -⟩ := selectorFollowsTheTransitionTable s b
  obtain ⟨hst, rfl⟩ := h7a.mp hselect
  have hi : i ≠ .rst := by
    rintro rfl
    cases hbyte
  refine ⟨hst, hbyte, ?_⟩
  rw [exec_next_cycle hi h, hbyte, Raw.cycle_some, Raw.process_slot]
  simp [hst]

/-- Settles O43: the frame in progress is the end of the stream, and the accepting byte completes it. -/
theorem acceptOnlyAfterAWholeFrame : Obligations.AcceptOnlyAfterAWholeFrame := by
  unfold Obligations.AcceptOnlyAfterAWholeFrame
  intro is i s t u hst his hrun hexec haccept
  obtain ⟨hchecksum, hbyte, hslot⟩ := exec_next_of_accept hexec haccept
  obtain ⟨⟨-, -, -, hlen⟩, -⟩ := (Raw.inv_iff_forall t.toRaw).mp t.legal
  have hcfg : t.cfg = s.cfg := runCommands_cfg hrun
  obtain ⟨before, hbefore⟩ := runCommands_partialFrame_suffix his hrun
  rw [Raw.partialFrame_awaitingStart hst, List.nil_append, Raw.partialFrame_awaitingChecksum hchecksum, hcfg] at hbefore
  refine ⟨before, t.buf, hcfg ▸ hlen hchecksum, ?_, hslot⟩
  rw [streamBytes_append, ← hbefore, streamBytes_cons, hbyte]
  simp [frameBytes, streamBytes]

end Sys2Proof.Machine

namespace Sys2Proof.Machine

/-! ## The transitions, row by row (40_process.md R102 to R109)

`selected_row_completes` says once what a selected row does, on its own, in `P b` and in `PT b`; each row's result is that of its
assignments in `Raw.applyRow`. -/

/-- `PT b` completes with the effect of the take, then of `process(b)` (41_take.md R133). -/
theorem exec_pt_completes (s : State) (b : Byte) : Completes (exec (.pt b) s) (s.fresh.take.process b) :=
  completes_ofRaw (Raw.process_inv (Raw.take_inv (Raw.fresh_inv_of_inv s.legal)) b)

/-- A selected row has its effect on its own, in `P b`, and in `PT b` on what the take leaves. -/
theorem selected_row_completes {s : State} {b : Byte} {r : Row} (h : s.select b = r) :
    Completes (exec (r.instr b) s) (s.fresh.applyRow r b) ∧
    Completes (exec (.p b) s) (s.fresh.applyRow r b) ∧
    Completes (exec (.pt b) s) (s.fresh.take.applyRow r b) := by
  have hp := exec_p_completes s b
  have hpt := exec_pt_completes s b
  rw [Raw.process, Raw.fresh_select, h] at hp
  rw [Raw.process, Raw.take_select, Raw.fresh_select, h] at hpt
  exact ⟨(exec_row_eq_exec_p h).symm ▸ hp, hp, hpt⟩

/-- In a step's fresh output record `Drop` is the old slot's being full (60_exceptions.md R183). -/
theorem Raw.fresh_raiseDropIfFull (s : Raw) :
    s.fresh.raiseDropIfFull = { s with out := { Out.quiet with drop := s.slot.isSome } } := by
  cases h : s.slot <;> simp [Raw.raiseDropIfFull, Raw.fresh, Raw.raise, Out.raise, h, Out.quiet]

/-- T7a on a fresh output record (R108). -/
theorem Raw.fresh_acceptFrame (s : Raw) : s.fresh.acceptFrame = { s with
    slot := some s.buf, buf := [], st := .awaitingStart
    out := { Out.quiet with accept := true, drop := s.slot.isSome } } := by
  rw [Raw.acceptFrame, Raw.fresh_raiseDropIfFull]
  rfl

/-- T7b on a fresh output record (R109). -/
theorem Raw.fresh_rejectChecksum (s : Raw) : s.fresh.rejectChecksum = { s with
    slot := none, buf := [], st := .awaitingStart
    out := { Out.quiet with rejCsum := true, drop := s.slot.isSome } } := by
  rw [Raw.rejectChecksum, Raw.fresh_raiseDropIfFull]
  rfl

/-- In AwaitingStart the buffer is empty (INV). -/
theorem State.buf_of_awaitingStart {s : State} (h : s.st = .awaitingStart) : s.buf = [] := by
  obtain ⟨⟨hempty, -⟩, -⟩ := (Raw.inv_iff_forall s.toRaw).mp s.legal
  exact hempty h

/-- Settles O10: the assignments of T1. -/
theorem startOfFrameResult : Obligations.StartOfFrameResult := by
  unfold Obligations.StartOfFrameResult
  intro s b hst hb
  have hselect : s.select b = .T1 := by rw [Raw.select_awaitingStart _ b hst, if_pos hb]
  exact selected_row_completes hselect

/-- Settles O11: T2 assigns nothing, and INV empties the buffer. -/
theorem huntResult : Obligations.HuntResult := by
  unfold Obligations.HuntResult
  intro s b hst hb
  have hselect : s.select b = .T2 := by rw [Raw.select_awaitingStart _ b hst, if_neg hb]
  exact ⟨State.buf_of_awaitingStart hst, selected_row_completes hselect⟩

/-- Settles O12: the assignments of T3; its predicate needs room for two bytes. -/
theorem accumulateResult : Obligations.AccumulateResult := by
  unfold Obligations.AccumulateResult
  constructor
  · intro s b hst hlt
    have hselect : s.select b = .T3 := by rw [Raw.select_receiving _ b hst, if_neg hlt.ne]
    exact selected_row_completes hselect
  · intro s b hn hselect
    obtain ⟨-, -, h3, -⟩ := selectorFollowsTheTransitionTable s b
    obtain ⟨-, hlt⟩ := h3.mp hselect
    omega

/-- Settles O13: the assignments of T4; and a payload of N bytes received by position is whole. -/
theorem payloadCompleteResult : Obligations.PayloadCompleteResult := by
  unfold Obligations.PayloadCompleteResult
  constructor
  · intro s b hst hn
    have hselect : s.select b = .T4 := by rw [Raw.select_receiving _ b hst, if_pos hn]
    exact selected_row_completes hselect
  · intro s p hst hn
    obtain ⟨t, ht, hbuf, -, htst⟩ := payloadIsReceivedByPosition p s hst hn.le
    rw [if_pos hn] at htst
    exact ⟨t, ht, htst, hbuf⟩

/-- Settles O14: the assignment of T5. -/
theorem endFoundResult : Obligations.EndFoundResult := by
  unfold Obligations.EndFoundResult
  intro s b hst hb
  have hselect : s.select b = .T5 := by rw [Raw.select_awaitingEnd _ b hst, if_pos hb]
  exact selected_row_completes hselect

/-- Settles O15: the assignments of T6. -/
theorem endRejectionResult : Obligations.EndRejectionResult := by
  unfold Obligations.EndRejectionResult
  intro s b hst hb
  have hselect : s.select b = .T6 := by rw [Raw.select_awaitingEnd _ b hst, if_neg hb]
  exact selected_row_completes hselect

/-- Settles O16: the assignments of T7a; after the take of `PT` there is no packet left to drop. -/
theorem frameAcceptedResult : Obligations.FrameAcceptedResult := by
  unfold Obligations.FrameAcceptedResult
  intro s b hst hb
  have hselect : s.select b = .T7a := by rw [Raw.select_awaitingChecksum _ b hst, if_pos hb]
  rw [← Raw.fresh_acceptFrame]
  exact selected_row_completes hselect

/-- Settles O17: the assignments of T7b, and a take from the slot it has cleared. -/
theorem checksumRejectionResult : Obligations.ChecksumRejectionResult := by
  unfold Obligations.ChecksumRejectionResult
  intro s b hst hb
  have hselect : s.select b = .T7b := by rw [Raw.select_awaitingChecksum _ b hst, if_neg hb]
  rw [← Raw.fresh_rejectChecksum]
  obtain ⟨hrow, hp, hpt⟩ := selected_row_completes hselect
  obtain ⟨t, ht, htraw⟩ := hp
  obtain ⟨u, hu, huraw⟩ := exec_t_completes t
  have htslot : t.slot = none := congrArg Raw.slot htraw
  exact ⟨hrow, ⟨t, ht, htraw⟩, hpt, t, u, ht, hu, by simp [huraw, htslot]⟩

/-! ## `process` as one function (R110) -/

/-- `process(b)` on a fresh output record leaves the triple and the flags of R110's function, and nothing else. -/
theorem Raw.fresh_process (s : Raw) (b : Byte) :
    s.fresh.process b = { s with
      st := (processAsOneFunction s.cfg s.st s.buf s.slot b).st
      buf := (processAsOneFunction s.cfg s.st s.buf s.slot b).buf
      slot := (processAsOneFunction s.cfg s.st s.buf s.slot b).slot
      out := Out.ofFlags (processAsOneFunction s.cfg s.st s.buf s.slot b).flags } := by
  cases hst : s.st with
  | awaitingStart =>
    rw [Raw.process_awaitingStart s.fresh b hst]
    by_cases hb : b = s.cfg.start
    · simp [processAsOneFunction, hb, Raw.fresh, Out.raise, Out.ofFlags, Out.quiet]
    · simp [processAsOneFunction, hb, Raw.fresh, Out.ofFlags, Out.quiet, hst]
  | receiving =>
    rw [Raw.process_receiving s.fresh b hst]
    by_cases hn : s.buf.length + 1 = s.cfg.n <;>
      simp [processAsOneFunction, hn, Raw.fresh, Out.ofFlags, Out.quiet]
  | awaitingEnd =>
    rw [Raw.process_awaitingEnd s.fresh b hst]
    by_cases hb : b = s.cfg.stop <;>
      simp [processAsOneFunction, hb, Raw.fresh, Out.raise, Out.ofFlags, Out.quiet]
  | awaitingChecksum =>
    rw [Raw.process_awaitingChecksum s.fresh b hst]
    by_cases hb : b = xorFold s.buf <;> cases hslot : s.slot <;>
      simp [processAsOneFunction, hb, hslot, Raw.fresh, Out.raise, Out.ofFlags, Out.quiet]

/-- Settles O9: `P b` has the effect of `process(b)`. -/
theorem processIsOneFunction : Obligations.ProcessIsOneFunction := by
  unfold Obligations.ProcessIsOneFunction
  intro s b
  rw [← Raw.fresh_process]
  exact exec_p_completes s b

/-! ## The checksum function (R101) -/

theorem xorFold_append_singleton (p : Packet) (b : Byte) : xorFold (p ++ [b]) = xorFold p ^^^ b := by
  simp [xorFold]

/-- The checksum does not depend on the order of the bytes. -/
theorem xorFold_perm {p q : Packet} (h : p.Perm q) : xorFold p = xorFold q := by
  induction h with
  | nil => rfl
  | cons b _ ih => rw [xorFold_cons, xorFold_cons, ih]
  | swap a b p =>
    simp only [xorFold_cons]
    ac_rfl
  | trans _ _ ih₁ ih₂ => exact ih₁.trans ih₂

/-- Bit `k` of the checksum is the parity of the bytes whose bit `k` is set. -/
theorem xorFold_getLsbD (p : Packet) (k : Nat) :
    (xorFold p).getLsbD k = true ↔ (p.countP (fun b => b.getLsbD k)) % 2 = 1 := by
  induction p with
  | nil => simp [xorFold]
  | cons b p ih =>
    rw [xorFold_cons, BitVec.getLsbD_xor, List.countP_cons]
    cases hb : b.getLsbD k with
    | false => simpa using ih
    | true =>
      cases hp : (xorFold p).getLsbD k <;> simp [hp] at ih ⊢ <;> omega

/-- Settles O37: the equations by the fold, order and parity by induction, the examples by evaluation. -/
theorem xorFoldIsTheChecksum : Obligations.XorFoldIsTheChecksum := by
  unfold Obligations.XorFoldIsTheChecksum
  exact ⟨rfl, xorFold_append_singleton, fun p q => xorFold_perm, fun p k _ => xorFold_getLsbD p k, by decide, by decide⟩

/-- A mask of the payload's length changes the checksum by its own fold. -/
theorem xorFold_zipWith_xor {p m : Packet} (h : m.length = p.length) :
    xorFold (List.zipWith (fun a d => a ^^^ d) p m) = xorFold p ^^^ xorFold m := by
  induction p generalizing m with
  | nil =>
    cases m with
    | nil => rfl
    | cons d m => cases h
  | cons a p ih =>
    cases m with
    | nil => cases h
    | cons d m =>
      rw [List.zipWith_cons_cons, xorFold_cons, xorFold_cons, xorFold_cons, ih (Nat.succ.inj h)]
      ac_rfl

/-- `P b` raises `Accept` exactly when it is the checksum byte of a whole frame (R108). -/
theorem exec_p_accepts_iff (s : State) (b : Byte) :
    (∃ t, exec (.p b) s = .next t ∧ t.out.accept = true) ↔ s.st = .awaitingChecksum ∧ b = xorFold s.buf := by
  constructor
  · rintro ⟨t, ht, haccept⟩
    obtain ⟨hst, hbyte, -⟩ := exec_next_of_accept ht haccept
    exact ⟨hst, Option.some.inj hbyte⟩
  · rintro ⟨hst, hb⟩
    obtain ⟨-, ⟨t, ht, hraw⟩, -⟩ := frameAcceptedResult s b hst hb
    exact ⟨t, ht, by rw [hraw]⟩

/-- Settles O38: the changed buffer's checksum differs by the fold of the mask, and `Accept` compares with it. -/
theorem checksumDetectsExactlyTheFoldedDifference : Obligations.ChecksumDetectsExactlyTheFoldedDifference := by
  unfold Obligations.ChecksumDetectsExactlyTheFoldedDifference
  refine ⟨fun p m => xorFold_zipWith_xor, fun s s' m d hst hlen hraw => ?_⟩
  obtain ⟨⟨-, -, -, hwhole⟩, -⟩ := (Raw.inv_iff_forall s.toRaw).mp s.legal
  have hst' : s'.st = .awaitingChecksum := by rw [hraw, hst]
  have hfold : xorFold s'.buf = xorFold s.buf ^^^ xorFold m := by
    rw [hraw, xorFold_zipWith_xor (hlen.trans (hwhole hst).symm)]
  rw [exec_p_accepts_iff, hfold, BitVec.xor_right_inj]
  exact ⟨fun ⟨_, h⟩ => h.symm, fun h => ⟨hst', h.symm⟩⟩

/-! ## Hunting (R103) -/

/-- In AwaitingStart bytes other than START change nothing but the output record. -/
theorem Raw.receive_hunt {s : Raw} (hst : s.st = .awaitingStart) {bs : List Byte} (h : ∀ b ∈ bs, b ≠ s.cfg.start) :
    (s.receive bs).fresh = s.fresh := by
  induction bs generalizing s with
  | nil => rfl
  | cons b bs ih =>
    obtain ⟨hb, hbs⟩ := List.forall_mem_cons.mp h
    rw [Raw.receive_cons, Raw.process_awaitingStart s.fresh b hst, Raw.fresh_cfg, if_neg hb]
    exact ih (s := s.fresh) hst hbs

/-- Settles O39: the commands have the effect of their bytes, which is none. -/
theorem huntingIgnoresEveryByteButStart : Obligations.HuntingIgnoresEveryByteButStart := by
  unfold Obligations.HuntingIgnoresEveryByteButStart
  intro bs s hst hbs
  obtain ⟨t, ht, hraw⟩ := runCommands_scriptBytes s bs
  have hfresh : t.fresh = s.fresh := by rw [hraw, Raw.receive_hunt hst hbs]
  have htst : t.st = s.st := (congrArg Raw.st hfresh :)
  exact ⟨t, ht, ⟨(congrArg Raw.cfg hfresh.symm :), htst.symm, (congrArg Raw.buf hfresh.symm :), (congrArg Raw.slot hfresh.symm :)⟩,
    State.buf_of_awaitingStart (htst.trans hst)⟩

/-! ## The acceptance criterion (R112)

That a frame is accepted is its byte-by-byte effect. That nothing else of its length is follows from L13
(`acceptOnlyAfterAWholeFrame`): an accepting step has a whole frame behind it, which leaves no room for other bytes. -/

/-- Every state of a trace is left by an instruction of the run, after the instructions before it. -/
theorem exists_exec_of_mem_trace {is : List Instr} {s v : State} (h : v ∈ trace is s) :
    ∃ (before after : List Instr) (i : Instr) (w : State),
      is = before ++ i :: after ∧ runCommands before s = .next w ∧ exec i w = .next v := by
  induction is generalizing s with
  | nil => cases h
  | cons i is ih =>
    cases hx : exec i s with
    | next u =>
      rw [trace_cons hx] at h
      obtain rfl | hu := List.mem_cons.mp h
      · exact ⟨[], is, i, s, rfl, rfl, hx⟩
      · obtain ⟨before, after, j, w, his, hrun, hexec⟩ := ih hu
        exact ⟨i :: before, after, j, w, by rw [his, List.cons_append], (runCommands_cons hx before).trans hrun, hexec⟩
    | fault f => cases f
    | refused e => simp [trace, hx] at h

theorem scriptBytes_append (bs cs : List Byte) : scriptBytes (bs ++ cs) = scriptBytes bs ++ scriptBytes cs :=
  List.map_append

/-- The stream of `BYTES` is its bytes. -/
theorem streamBytes_scriptBytes (bs : List Byte) : streamBytes (scriptBytes bs) = bs := by
  induction bs with
  | nil => rfl
  | cons b bs ih =>
    rw [scriptBytes, List.map_cons, streamBytes_cons]
    exact congrArg (b :: ·) ih

/-- There is no reset in `BYTES`. -/
theorem ne_rst_of_mem_scriptBytes {bs : List Byte} {i : Instr} (h : i ∈ scriptBytes bs) : i ≠ .rst := by
  obtain ⟨b, -, rfl⟩ := List.mem_map.mp h
  simp

/-- N+3 bytes from AwaitingStart that raise `Accept` anywhere are a wire frame. -/
theorem eq_frameBytes_of_accept {s v : State} {bs : List Byte} (hst : s.st = .awaitingStart)
    (hlen : bs.length = frameLength s.cfg) (hv : v ∈ trace (scriptBytes bs) s) (haccept : v.out.accept = true) :
    ∃ p : Packet, p.length = s.cfg.n ∧ bs = frameBytes s.cfg p := by
  obtain ⟨before, after, i, w, hscript, hrun, hexec⟩ := exists_exec_of_mem_trace hv
  have hnorst : ∀ j ∈ before, j ≠ .rst := fun j hj =>
    ne_rst_of_mem_scriptBytes (hscript ▸ List.mem_append_left _ hj)
  obtain ⟨pre, p, hp, hstream, -⟩ := acceptOnlyAfterAWholeFrame before i s w v hst hnorst hrun hexec haccept
  have hbs : bs = pre ++ frameBytes s.cfg p ++ streamBytes after := by
    calc bs = streamBytes (scriptBytes bs) := (streamBytes_scriptBytes bs).symm
      _ = streamBytes (before ++ [i] ++ after) := by rw [hscript, List.append_assoc, List.singleton_append]
      _ = pre ++ frameBytes s.cfg p ++ streamBytes after := by rw [streamBytes_append, hstream]
  have hroom := congrArg List.length hbs
  rw [List.length_append, List.length_append, length_frameBytes hp] at hroom
  have hpre : pre = [] := List.length_eq_zero_iff.mp (by omega)
  have hafter : streamBytes after = [] := List.length_eq_zero_iff.mp (by omega)
  exact ⟨p, hp, by rw [hbs, hpre, hafter, List.nil_append, List.append_nil]⟩

/-- After START and N bytes, END is found or the frame rejected. -/
theorem Raw.receive_start_payload_end {s : Raw} (hst : s.st = .awaitingStart) {p : Packet} (h : p.length = s.cfg.n) (e : Byte) :
    s.receive (s.cfg.start :: (p ++ [e])) =
      if e = s.cfg.stop then { s.fresh with buf := p, st := .awaitingChecksum }
      else { s.fresh with buf := [], st := .awaitingStart, out := Out.quiet.raise .rejEnd } := by
  have hpayload := Raw.receive_start_payload hst h.le
  rw [if_pos h] at hpayload
  rw [← List.cons_append, Raw.receive_append, Raw.receive_cons, hpayload, Raw.process_awaitingEnd _ e rfl]
  rfl

/-- Settles O42: `e` ends in AwaitingChecksum with the payload or back in AwaitingStart, and `c` is examined there. -/
theorem acceptanceCriterion : Obligations.AcceptanceCriterion := by
  unfold Obligations.AcceptanceCriterion
  intro s p e c hst hn
  obtain ⟨t, ht, htraw⟩ := runCommands_scriptBytes s (s.cfg.start :: (p ++ [e]))
  obtain ⟨u, hu, huraw⟩ := exec_p_completes t c
  rw [Raw.receive_start_payload_end hst hn] at htraw
  refine ⟨t, u, ht, hu, ⟨?frame, ?accepted⟩, fun he => ?found, fun he => ?rejected⟩
  case frame =>
    rintro ⟨v, hv, haccept⟩
    obtain ⟨q, hq, hframe⟩ := eq_frameBytes_of_accept hst (by simp [frameLength, hn]) hv haccept
    obtain ⟨rfl, htail⟩ := List.append_inj (List.cons.inj hframe).2 (hn.trans hq.symm)
    simpa using htail
  case accepted =>
    rintro ⟨he, hc⟩
    rw [if_pos he] at htraw
    obtain ⟨u', hu', haccept⟩ := (exec_p_accepts_iff t c).mpr ⟨by rw [htraw], by rw [htraw, hc]⟩
    have hsplit : s.cfg.start :: (p ++ [e, c]) = s.cfg.start :: (p ++ [e]) ++ [c] := by simp
    refine ⟨u', ?_, haccept⟩
    rw [hsplit, scriptBytes_append, trace_append ht]
    exact List.mem_append_right _ (trace_cons hu' [] ▸ List.mem_singleton_self u')
  case found =>
    rw [if_pos he] at htraw
    rw [huraw, htraw, Raw.process_awaitingChecksum _ c rfl]
    exact ⟨rfl, rfl, rfl⟩
  case rejected =>
    rw [if_neg he] at htraw
    rw [huraw, htraw, Raw.process_awaitingStart _ c rfl]
    by_cases hc : c = s.cfg.start <;> simp [hc]

/-! ## Packets taken (41_take.md R131)

One step's account of packets: what it takes and what it leaves in the slot were in the slot before, or accepted by it. Along a run
the accounts add up. -/

/-- Without `Accept`, `process(b)` empties the slot or leaves it (R108, R109). -/
theorem Raw.process_slot_of_not_accept {s : Raw} {b : Byte} (h : ¬ (s.process b).out.accept = true) :
    (s.process b).slot = none ∨ (s.process b).slot = s.slot := by
  by_cases hst : s.st = .awaitingChecksum
  · by_cases hb : b = xorFold s.buf
    · rw [Raw.process_awaitingChecksum s b hst] at h
      simp [hb] at h
    · exact .inl (by simp [Raw.process_slot, hst, hb])
  · exact .inr (by simp [Raw.process_slot, hst])

/-- Without `Accept`, a step empties the slot that its consumer half leaves, or leaves it. -/
theorem Raw.cycle_slot_of_not_accept {s : Raw} {take : Bool} {byte : Option Byte}
    (h : ¬ (s.cycle take byte).out.accept = true) :
    (s.cycle take byte).slot = none ∨ (s.cycle take byte).slot = (s.takeHalf take).slot := by
  cases byte with
  | none => exact .inr rfl
  | some b => exact Raw.process_slot_of_not_accept h

/-- What a step takes is what its consumer half takes. -/
theorem Raw.cycle_taken (s : Raw) (take : Bool) (byte : Option Byte) :
    (s.cycle take byte).out.taken = if take then s.slot else none := by
  cases byte <;> simp

/-- The consumer half moves the pending packet to `taken` or keeps it: it is in one of the two places. -/
theorem Raw.taken_append_takeHalf_slot (s : Raw) (take : Bool) (byte : Option Byte) :
    (s.cycle take byte).out.taken.toList ++ (s.takeHalf take).slot.toList = s.slot.toList := by
  rw [Raw.cycle_taken, Raw.takeHalf_slot]
  cases take <;> simp

/-- A step's account: the packet taken, then the one in the slot, are among the one in the slot before and the one accepted. -/
theorem exec_next_packets_sublist {i : Instr} {s t : State} (h : exec i s = .next t) :
    (t.out.taken.toList ++ t.slot.toList).Sublist (s.slot.toList ++ (acceptedPayload t).toList) := by
  by_cases hi : i = .rst
  · subst hi
    simp [exec_next_rst h]
  have ht := exec_next_cycle hi h
  rw [← Raw.taken_append_takeHalf_slot s.toRaw i.takes i.byte, ← ht, List.append_assoc]
  refine List.Sublist.append_left ?_ _
  by_cases haccept : t.out.accept = true
  · rw [acceptedPayload, if_pos haccept]
    exact List.sublist_append_right _ _
  · have hslot : t.slot = none ∨ t.slot = (s.takeHalf i.takes).slot := by
      rw [ht] at haccept ⊢
      exact Raw.cycle_slot_of_not_accept haccept
    obtain hnone | hkept := hslot
    · rw [hnone]
      exact List.nil_sublist _
    · rw [hkept]
      exact List.sublist_append_left _ _

theorem takenPackets_cons (t : State) (ts : List State) : takenPackets (t :: ts) = t.out.taken.toList ++ takenPackets ts := by
  cases h : t.out.taken <;> simp [takenPackets, h]

theorem acceptedPayloads_cons (t : State) (ts : List State) :
    acceptedPayloads (t :: ts) = (acceptedPayload t).toList ++ acceptedPayloads ts := by
  cases h : acceptedPayload t <;> simp [acceptedPayloads, h]

/-- Settles O45: the account of the first step, then of the rest, whose pending packet is the one the first step left. -/
theorem takenPacketsAreAcceptedPayloadsInOrder : Obligations.TakenPacketsAreAcceptedPayloadsInOrder := by
  unfold Obligations.TakenPacketsAreAcceptedPayloadsInOrder
  intro is
  induction is with
  | nil => exact fun s t _ => List.nil_sublist _
  | cons i is ih =>
    intro s t h
    obtain ⟨u, hu, hrun⟩ := runCommands_cons_eq_next h
    have hfirst := (exec_next_packets_sublist hu).append_right (acceptedPayloads (trace is u))
    have hrest := (ih u t hrun).append_left u.out.taken.toList
    rw [trace_cons hu, takenPackets_cons, acceptedPayloads_cons, ← List.append_assoc]
    rw [← List.append_assoc] at hrest
    exact hrest.trans hfirst

end Sys2Proof.Machine

namespace Sys2Proof

/-- `T` and `PT` are the instructions with a take half. -/
theorem Instr.takes_iff (i : Instr) : i.takes = true ↔ i = .t ∨ ∃ b, i = .pt b := by
  cases i <;> simp [Instr.takes]

end Sys2Proof

namespace Sys2Proof.Machine

/-! ## Reception does not depend on the consumer (41_take.md R130, R132, R133; 70_reset_and_hazards.md R219)

What a byte does to `st` and `buf` reads `cfg`, `st` and `buf` only. `runCommands_sameReception` reads every run without reset as
`Raw.receive` of its stream bytes; two runs are then compared by their bytes. -/

/-- The byte side of two blocks is the same: configuration, `st` and `buf`. -/
structure Raw.SameReception (r s : Raw) : Prop where
  cfg : r.cfg = s.cfg
  st : r.st = s.st
  buf : r.buf = s.buf

theorem Raw.SameReception.trans {r s u : Raw} (h : r.SameReception s) (h' : s.SameReception u) : r.SameReception u :=
  ⟨h.cfg.trans h'.cfg, h.st.trans h'.st, h.buf.trans h'.buf⟩

theorem Raw.SameReception.symm {r s : Raw} (h : r.SameReception s) : s.SameReception r := ⟨h.cfg.symm, h.st.symm, h.buf.symm⟩

/-- The consumer half leaves the byte side alone. -/
theorem Raw.takeHalf_sameReception (s : Raw) (take : Bool) : (s.takeHalf take).SameReception s :=
  ⟨Raw.takeHalf_cfg s take, Raw.takeHalf_st s take, Raw.takeHalf_buf s take⟩

/-- A row writes `st` and `buf` by what they were. -/
theorem Raw.SameReception.applyRow {r s : Raw} (h : r.SameReception s) (row : Row) (b : Byte) :
    (r.applyRow row b).SameReception (s.applyRow row b) := by
  have hcfg : (r.applyRow row b).cfg = (s.applyRow row b).cfg := by simp [h.cfg]
  cases row with
  | T1 => exact ⟨hcfg, rfl, rfl⟩
  | T2 => exact h
  | T3 => exact ⟨hcfg, rfl, congrArg (· ++ [b]) h.buf⟩
  | T4 => exact ⟨hcfg, rfl, congrArg (· ++ [b]) h.buf⟩
  | T5 => exact ⟨hcfg, rfl, h.buf⟩
  | T6 => exact ⟨hcfg, rfl, rfl⟩
  | T7a => exact ⟨hcfg, rfl, rfl⟩
  | T7b => exact ⟨hcfg, rfl, rfl⟩

/-- The selector and the rows read the byte side only. -/
theorem Raw.SameReception.process {r s : Raw} (h : r.SameReception s) (b : Byte) :
    (r.process b).SameReception (s.process b) := by
  rw [Raw.process, Raw.process, Raw.select_congr h.cfg h.st h.buf]
  exact h.applyRow _ b

theorem Raw.SameReception.receive {r s : Raw} (h : r.SameReception s) (bs : List Byte) :
    (r.receive bs).SameReception (s.receive bs) := by
  induction bs generalizing r s with
  | nil => exact h
  | cons b bs ih =>
    have hfresh : r.fresh.SameReception s.fresh := ⟨h.cfg, h.st, h.buf⟩
    exact ih (hfresh.process b)

/-- A step without reset does to the byte side what its byte does, if it carries one. -/
theorem Raw.cycle_sameReception (s : Raw) (take : Bool) (byte : Option Byte) :
    (s.cycle take byte).SameReception (s.receive byte.toList) := by
  cases byte with
  | none => exact s.takeHalf_sameReception take
  | some b =>
    have hfresh : (s.takeHalf take).SameReception s.fresh :=
      ⟨Raw.takeHalf_cfg s take, Raw.takeHalf_st s take, Raw.takeHalf_buf s take⟩
    exact hfresh.process b

/-- A run of commands without reset completes, and does to the byte side what its stream bytes do. -/
theorem runCommands_sameReception {is : List Instr} (his : ∀ i ∈ is, i.isCommand = true ∧ i ≠ .rst) (s : State) :
    ∃ t, runCommands is s = .next t ∧ t.SameReception (s.receive (streamBytes is)) := by
  induction is generalizing s with
  | nil => exact ⟨s, rfl, rfl, rfl, rfl⟩
  | cons i is ih =>
    obtain ⟨⟨hcommand, hi⟩, his⟩ := List.forall_mem_cons.mp his
    obtain ⟨u, hu⟩ := exec_command_completes hcommand s
    obtain ⟨t, ht, hrest⟩ := ih his u
    have hstep : u.SameReception (s.receive i.byte.toList) := by
      rw [exec_next_cycle hi hu]
      exact s.cycle_sameReception _ _
    refine ⟨t, (runCommands_cons hu is).trans ht, ?_⟩
    rw [streamBytes_cons, Raw.receive_append]
    exact hrest.trans (hstep.receive _)

/-- Settles O44: both runs do to the byte side what the same bytes do to the same byte side. -/
theorem receptionIgnoresTakesAndPauses : Obligations.ReceptionIgnoresTakesAndPauses := by
  unfold Obligations.ReceptionIgnoresTakesAndPauses
  intro is js s s' hcfg hst hbuf his hjs hbytes
  obtain ⟨t, ht, hrecv⟩ := runCommands_sameReception his s
  obtain ⟨t', ht', hrecv'⟩ := runCommands_sameReception hjs s'
  rw [← hbytes] at hrecv'
  have hstart : s.SameReception s'.toRaw := ⟨hcfg, hst, hbuf⟩
  have hsame := (hrecv.trans (hstart.receive _)).trans hrecv'.symm
  exact ⟨t, t', ht, ht', hsame.st, hsame.buf⟩

/-! ## `T`, `NOP` and `PT` (41_take.md R130, R132, R133) -/

/-- A take from an empty slot is no more than a pause (R130). -/
theorem Raw.take_fresh_of_none {s : Raw} (h : s.slot = none) : s.fresh.take = s.fresh := by
  unfold Raw.take
  rw [Raw.fresh_slot, h]
  exact Raw.eq_of_fields rfl rfl rfl h.symm rfl rfl rfl

/-- Settles O18: the assignments of a take, which from an empty slot leave what a fresh output record leaves. -/
theorem takeResult : Obligations.TakeResult := by
  unfold Obligations.TakeResult
  intro s
  refine ⟨exec_t_completes s, fun hnone => ?_⟩
  have ht := exec_t_completes s
  rw [Raw.take_fresh_of_none hnone] at ht
  exact ht

/-- `NOP` completes with a fresh output record. -/
theorem exec_nop_completes (s : State) : Completes (exec .nop s) s.fresh :=
  completes_ofRaw (Raw.fresh_inv_of_inv s.legal)

/-- Each further `NOP` finds what the first one left. -/
theorem runCommands_nops_completes (s : State) (k : Nat) : Completes (runCommands (List.replicate (k + 1) .nop) s) s.fresh := by
  induction k generalizing s with
  | zero =>
    obtain ⟨t, ht, hraw⟩ := exec_nop_completes s
    exact ⟨t, runCommands_cons ht [], hraw⟩
  | succ k ih =>
    obtain ⟨t, ht, hraw⟩ := exec_nop_completes s
    have hfresh : t.fresh = s.fresh := by rw [hraw]; rfl
    rw [List.replicate_succ, runCommands_cons ht, ← hfresh]
    exact ih t

/-- Settles O19: the first `NOP` starts the output record afresh, and the others start it afresh again. -/
theorem nopResult : Obligations.NopResult := by
  unfold Obligations.NopResult
  exact fun s => ⟨exec_nop_completes s, runCommands_nops_completes s⟩

/-- After a take, the byte half does what it does in a step of its own, beside the packet taken (R133). -/
theorem Raw.take_process (s : Raw) (b : Byte) :
    s.fresh.take.process b =
      { s.fresh.take.fresh.process b with out := { (s.fresh.take.fresh.process b).out with taken := s.slot } } := by
  have hsame : s.fresh.take.SameReception s.fresh.take.fresh := ⟨rfl, rfl, rfl⟩
  have hbyte := hsame.process b
  have hout : (s.fresh.take.process b).out = { (s.fresh.take.fresh.process b).out with taken := s.slot } := by
    rw [Raw.process_out (taken := s.slot) rfl, Raw.process_out (taken := none) rfl]
    rfl
  exact Raw.eq_of_fields hbyte.cfg hbyte.st hbyte.buf (by simp only [Raw.process_slot]; rfl) hout (by simp) (by simp)

/-- With the slot empty no transition raises `Drop` (60_exceptions.md R183). -/
theorem Raw.fresh_process_drop {s : Raw} (h : s.slot = none) (b : Byte) : (s.fresh.process b).out.drop = false := by
  rw [Raw.process_out (taken := none) rfl, Raw.fresh_slot, h]
  exact Bool.and_false _

/-- Settles O20: the byte half finds the emptied slot in both runs, and does the same to everything but `taken`. -/
theorem takeThenProcessResult : Obligations.TakeThenProcessResult := by
  unfold Obligations.TakeThenProcessResult
  intro s b
  obtain ⟨s1, h1, hraw1⟩ := exec_t_completes s
  obtain ⟨s2, h2, hraw2⟩ := exec_p_completes s1 b
  have hslot : s1.slot = none := by rw [hraw1]; rfl
  have htaken : s1.out.taken = s.slot := by rw [hraw1]; rfl
  have hdrop : s2.out.drop = false := by rw [hraw2]; exact Raw.fresh_process_drop hslot b
  refine ⟨s1, s2, h1, h2, htaken, hdrop, ?_⟩
  rw [hraw2, hraw1, ← Raw.take_process]
  exact exec_pt_completes s b

/-! ## The slot multiplexer (41_take.md R134) -/

/-- T7a and T7b are the rows that write the slot (10_state.md R30). -/
theorem Raw.applyRow_slot (s : Raw) (r : Row) (b : Byte) :
    (s.applyRow r b).slot = if r = .T7a then some s.buf else if r = .T7b then none else s.slot := by
  cases r with
  | T7a => simp [Raw.applyRow, Raw.acceptFrame]
  | T7b => simp [Raw.applyRow, Raw.rejectChecksum]
  | _ => rfl

/-- The slot after a step without reset: the byte half's row first, then the take, else the old packet. -/
theorem Raw.cycle_slot (s : Raw) (take : Bool) (byte : Option Byte) :
    (s.cycle take byte).slot =
      if byte.map s.select = some .T7a then some s.buf
      else if byte.map s.select = some .T7b then none
      else if take then none
      else s.slot := by
  cases byte with
  | none => simp
  | some b => simp [Raw.process, Raw.applyRow_slot]

/-- Settles O32: reset apart, the slot is that of the step's two halves. -/
theorem slotMultiplexer : Obligations.SlotMultiplexer := by
  unfold Obligations.SlotMultiplexer
  intro i s t _ h
  refine ⟨?_, rfl⟩
  by_cases hi : i = .rst
  · subst hi
    rw [exec_next_rst h, if_pos rfl]
    rfl
  · rw [if_neg hi, exec_next_cycle hi h, Raw.cycle_slot]
    simp only [Instr.takes_iff]

/-! ## The take window (70_reset_and_hazards.md R216)

A byte reaches the slot in AwaitingChecksum only, where the frame in progress has N+2 bytes; and the frame in progress grows by at
most the bytes that have arrived. So N+2 bytes are too few to write the slot. -/

/-- The frame in progress in AwaitingChecksum: START, N bytes, END. -/
theorem State.length_partialFrame_of_awaitingChecksum {s : State} (h : s.st = .awaitingChecksum) :
    s.partialFrame.length = s.cfg.n + 2 := by
  obtain ⟨⟨-, -, -, hwhole⟩, -⟩ := (Raw.inv_iff_forall s.toRaw).mp s.legal
  simp [Raw.partialFrame_awaitingChecksum h, hwhole h]

/-- `NOP` and `P b` keep the slot when the frame in progress and their byte are at most N+2 bytes. -/
theorem exec_keeps_slot {i : Instr} (hi : i = .nop ∨ ∃ b, i = .p b) {s : State}
    (h : s.partialFrame.length + i.byte.toList.length ≤ s.cfg.n + 2) : ∃ t, exec i s = .next t ∧ t.slot = s.slot := by
  obtain rfl | ⟨b, rfl⟩ := hi
  · obtain ⟨t, ht, hraw⟩ := exec_nop_completes s
    exact ⟨t, ht, by rw [hraw, Raw.fresh_slot]⟩
  · obtain ⟨t, ht, hraw⟩ := exec_p_completes s b
    have hst : s.st ≠ .awaitingChecksum := by
      intro hst
      have hlen := State.length_partialFrame_of_awaitingChecksum hst
      have hbyte : (Instr.p b).byte.toList.length = 1 := rfl
      omega
    exact ⟨t, ht, by rw [hraw, Raw.process_slot, Raw.fresh_st, if_neg hst, Raw.fresh_slot]⟩

/-- So does a run of them. -/
theorem runCommands_keeps_slot {is : List Instr} (his : ∀ i ∈ is, i = .nop ∨ ∃ b, i = .p b) {s : State}
    (h : s.partialFrame.length + (streamBytes is).length ≤ s.cfg.n + 2) :
    ∃ t, runCommands is s = .next t ∧ t.slot = s.slot := by
  induction is generalizing s with
  | nil => exact ⟨s, rfl, rfl⟩
  | cons i is ih =>
    obtain ⟨hi, his⟩ := List.forall_mem_cons.mp his
    rw [streamBytes_cons, List.length_append] at h
    obtain ⟨u, hu, hslot⟩ := exec_keeps_slot hi (s := s) (by omega)
    have hrst : i ≠ .rst := by obtain rfl | ⟨b, rfl⟩ := hi <;> simp
    have hgrow := (exec_next_partialFrame_suffix hrst hu).length_le
    obtain ⟨hcfg, -, -⟩ := exec_next_frame hu
    rw [List.length_append] at hgrow
    obtain ⟨t, ht, hrest⟩ := ih his (s := u) (by rw [hcfg]; omega)
    exact ⟨t, (runCommands_cons hu is).trans ht, hrest.trans hslot⟩

/-- Settles O48: the packet is still there after the run, and both forms of take return what is there. -/
theorem takeWindow : Obligations.TakeWindow := by
  unfold Obligations.TakeWindow
  intro is s p hst hp his hlen
  obtain ⟨t, ht, hkept⟩ := runCommands_keeps_slot his (s := s)
    (by rw [Raw.partialFrame_awaitingStart hst, List.length_nil, Nat.zero_add]; exact hlen)
  have hslot : t.slot = some p := hkept.trans hp
  obtain ⟨u, hu, huraw⟩ := exec_t_completes t
  refine ⟨t, ht, hslot, ⟨u, hu, by rw [huraw]; exact hslot⟩, fun b => ?_⟩
  obtain ⟨-, s2, -, -, -, hdrop, v, hv, hvraw⟩ := takeThenProcessResult t b
  exact ⟨v, hv, by rw [hvraw]; exact hslot, by rw [hvraw]; exact hdrop⟩

/-! ## The reference driver (43_relay_environment.md R167, R168)

One iteration ends as it began, with the slot empty, and has taken what its byte has accepted. `LosesNothing` says so of a list of
commands and joins along `++`; the run is the induction over its iterations. -/

/-- From `s` the commands complete with the slot empty, never raise `Drop`, and take exactly the accepted payloads (R135). -/
def LosesNothing (is : List Instr) (s : State) : Prop :=
  ∃ t, runCommands is s = .next t ∧ t.slot = none ∧ (∀ v ∈ trace is s, v.out.drop = false) ∧
    takenPackets (trace is s) = acceptedPayloads (trace is s)

theorem LosesNothing.append {is js : List Instr} {s : State} (his : LosesNothing is s)
    (hjs : ∀ t : State, t.slot = none → LosesNothing js t) : LosesNothing (is ++ js) s := by
  obtain ⟨t, ht, hslot, hdrop, htaken⟩ := his
  obtain ⟨u, hu, huslot, hudrop, hutaken⟩ := hjs t hslot
  refine ⟨u, (runCommands_append ht).trans hu, huslot, ?_, ?_⟩
  · rw [trace_append ht]
    exact List.forall_mem_append.mpr ⟨hdrop, hudrop⟩
  · rw [trace_append ht, takenPackets, acceptedPayloads, List.filterMap_append, List.filterMap_append]
    exact congrArg₂ (· ++ ·) htaken hutaken

/-- One command that leaves the slot empty and its output record quiet. -/
theorem losesNothing_singleton {i : Instr} {s t : State} (ht : exec i s = .next t) (hslot : t.slot = none)
    (hout : t.out = Out.quiet) : LosesNothing [i] s := by
  have htrace : trace [i] s = [t] := trace_cons ht []
  refine ⟨t, runCommands_cons ht [], hslot, by simp [htrace, hout], ?_⟩
  simp [htrace, takenPackets, acceptedPayloads, acceptedPayload, hout]

/-- `RST` empties the slot, and neither takes nor accepts (42_system.md R150). -/
theorem losesNothing_rst (s : State) : LosesNothing [.rst] s := by
  obtain ⟨t, ht⟩ := exec_command_completes (i := .rst) rfl s
  have hraw := exec_next_rst ht
  exact losesNothing_singleton ht (by rw [hraw]; rfl) (by rw [hraw]; rfl)

/-- `IDLE` from an empty slot: the take finds nothing. -/
theorem losesNothing_idle {s : State} (h : s.slot = none) : LosesNothing scriptIdle s := by
  obtain ⟨t, ht, hraw⟩ := exec_t_completes s
  rw [Raw.take_fresh_of_none h] at hraw
  exact losesNothing_singleton ht (by rw [hraw]; exact h) (by rw [hraw]; rfl)

/-- From an empty slot, the slot after `process(b)` is what the step accepted. -/
theorem acceptedPayload_of_process {s t : State} (h : s.slot = none) {b : Byte} (ht : t.toRaw = s.fresh.process b) :
    acceptedPayload t = t.slot := by
  unfold acceptedPayload
  by_cases haccept : t.out.accept = true
  · exact if_pos haccept
  · rw [if_neg haccept]
    rw [ht] at haccept ⊢
    obtain hnone | hkept := Raw.process_slot_of_not_accept haccept
    · exact hnone.symm
    · exact (hkept.trans h).symm

/-- `RELAY b` from an empty slot: the take returns what the byte accepted. -/
theorem losesNothing_relay {s : State} (h : s.slot = none) (b : Byte) : LosesNothing (scriptRelay b) s := by
  obtain ⟨t, ht, htraw⟩ := exec_p_completes s b
  obtain ⟨u, hu, huraw⟩ := exec_t_completes t
  have hdrop : t.out.drop = false := by rw [htraw]; exact Raw.fresh_process_drop h b
  have htaken : t.out.taken = none := by rw [htraw, Raw.process_taken]; rfl
  have haccepted : acceptedPayload t = t.slot := acceptedPayload_of_process h htraw
  have hudrop : u.out.drop = false := by rw [huraw]; rfl
  have hutaken : u.out.taken = t.slot := by rw [huraw]; rfl
  have huaccepted : acceptedPayload u = none := by rw [acceptedPayload, huraw]; rfl
  have htrace : trace (scriptRelay b) s = [t, u] := by rw [scriptRelay, trace_cons ht, trace_cons hu, trace]
  refine ⟨u, (runCommands_cons ht _).trans (runCommands_cons hu []), by rw [huraw]; rfl, by simp [htrace, hdrop, hudrop], ?_⟩
  rw [htrace, takenPackets_cons, takenPackets_cons, acceptedPayloads_cons, acceptedPayloads_cons, htaken, hutaken, haccepted,
    huaccepted]
  rfl

/-- Every sequence of iterations from an empty slot. -/
theorem losesNothing_driverIterations (reads : List (Option Byte)) {s : State} (h : s.slot = none) :
    LosesNothing (driverIterations reads) s := by
  induction reads generalizing s with
  | nil => exact ⟨s, rfl, h, List.forall_mem_nil _, rfl⟩
  | cons read reads ih =>
    rw [driverIterations_cons]
    cases read with
    | none => exact (losesNothing_idle h).append fun t ht => ih ht
    | some b => exact (losesNothing_relay h b).append fun t ht => ih ht

/-- Settles O46: the leading `RST` empties the slot, and the iterations keep it empty. -/
theorem referenceDriverLosesNothing : Obligations.ReferenceDriverLosesNothing := by
  unfold Obligations.ReferenceDriverLosesNothing
  rintro reads s is (rfl | ⟨rfl, hslot⟩)
  · exact (losesNothing_rst s).append fun t ht => losesNothing_driverIterations reads ht
  · exact losesNothing_driverIterations reads hslot

/-! ## The driver with merged takes (43_relay_environment.md R167)

After the first byte, `T; P c; ...` and `PT c; ...` run side by side: the states stay equal up to the output record, which no step
reads. -/

/-- Each byte of a source that always has one is `P b; T`. -/
theorem driverIterations_map_some_cons (b : Byte) (bs : List Byte) :
    driverIterations ((b :: bs).map some) = .p b :: .t :: driverIterations (bs.map some) := rfl

/-- After `P b`, taking and then reading on is the same as merging each take into the next byte: same final state, same packets. -/
theorem mergedTakes_from_first_take (bs : List Byte) {s s' : State} (h : s.fresh = s'.fresh) :
    runCommands (.t :: driverIterations (bs.map some)) s = runCommands (bs.map Instr.pt ++ [.t]) s' ∧
    takenPackets (trace (.t :: driverIterations (bs.map some)) s) = takenPackets (trace (bs.map Instr.pt ++ [.t]) s') := by
  induction bs generalizing s s' with
  | nil =>
    have hsame : exec .t s = exec .t s' := by rw [exec_t, exec_t, h]
    change runCommands [.t] s = runCommands [.t] s' ∧ takenPackets (trace [.t] s) = takenPackets (trace [.t] s')
    rw [runCommands, runCommands, trace, trace, hsame]
    exact ⟨rfl, rfl⟩
  | cons c bs ih =>
    obtain ⟨s1, s2, h1, h2, htaken, -, hmerged⟩ := takeThenProcessResult s c
    have hsame : exec (.pt c) s = exec (.pt c) s' := by rw [exec_pt, exec_pt, h]
    rw [hsame] at hmerged
    obtain ⟨u, hu, huraw⟩ := hmerged
    have htaken2 : s2.out.taken = none := by rw [exec_next_cycle (by simp) h2]; simp [Instr.takes, Instr.byte]
    have hutaken : u.out.taken = s.slot := by rw [huraw]
    obtain ⟨hrun, hpackets⟩ := ih (s := s2) (s' := u) (by rw [huraw]; rfl)
    rw [driverIterations_map_some_cons, runCommands_cons h1, runCommands_cons h2, trace_cons h1, trace_cons h2, List.map_cons,
      List.cons_append, runCommands_cons hu, trace_cons hu, takenPackets_cons, takenPackets_cons, takenPackets_cons, htaken,
      htaken2, hutaken]
    exact ⟨hrun, congrArg (s.slot.toList ++ ·) hpackets⟩

/-- The iterations alone: the first byte is the same command in both. -/
theorem mergedIterations_drive_the_same (b : Byte) (bs : List Byte) (s : State) :
    runCommands (driverIterations ((b :: bs).map some)) s = runCommands (mergedIterations b bs) s ∧
    takenPackets (trace (driverIterations ((b :: bs).map some)) s) = takenPackets (trace (mergedIterations b bs) s) := by
  obtain ⟨t, ht, -⟩ := exec_p_completes s b
  obtain ⟨hrun, hpackets⟩ := mergedTakes_from_first_take bs (rfl : t.fresh = t.fresh)
  rw [driverIterations_map_some_cons, mergedIterations, runCommands_cons ht, runCommands_cons ht, trace_cons ht, trace_cons ht,
    takenPackets_cons, takenPackets_cons]
  exact ⟨hrun, congrArg (t.out.taken.toList ++ ·) hpackets⟩

/-- Settles O47: the iterations, and then the same iterations after the `RST` that both runs begin with. -/
theorem mergedTakesDriveTheSame : Obligations.MergedTakesDriveTheSame := by
  unfold Obligations.MergedTakesDriveTheSame
  intro b bs s
  obtain ⟨hrun, hpackets⟩ := mergedIterations_drive_the_same b bs s
  obtain ⟨t, ht⟩ := exec_command_completes (i := .rst) rfl s
  obtain ⟨hrunReset, hpacketsReset⟩ := mergedIterations_drive_the_same b bs t
  rw [driverCommands, runCommands_cons ht, runCommands_cons ht, trace_cons ht, trace_cons ht, takenPackets_cons,
    takenPackets_cons, hpacketsReset]
  exact ⟨hrun, hpackets, hrunReset, rfl⟩

end Sys2Proof.Machine

namespace Sys2Proof.Machine

/-! ## `RST` (42_system.md R150)

That no other command resets the state rests on one pair of states for all of them: the reset state and the state one START byte
later. A command without a byte leaves their `st` different; a byte finds the buffer empty and leaves it empty in the one, and
is appended to it in the other. -/

/-- A word with `rst` set leaves the reset triple and a quiet output record, whatever its other bits (R76, R77). -/
theorem Raw.applyWord_of_rst {w : CmdWord} (h : w.rst = true) (s : Raw) :
    s.applyWord w = { s with st := .awaitingStart, buf := [], slot := none, out := Out.quiet } := if_pos h

/-- `RST` in the reset state changes nothing. -/
theorem exec_rst_resetOf (cfg : Config) : exec .rst (State.resetOf cfg) = .next (State.resetOf cfg) :=
  (exec_rst _).trans (State.ofRaw_eq_next.mpr rfl)

/-- START in AwaitingStart leads to Receiving (R102). -/
theorem exec_start_next {s : State} (hst : s.st = .awaitingStart) :
    ∃ t, exec (.p s.cfg.start) s = .next t ∧ t.st = .receiving ∧ t.cfg = s.cfg := by
  obtain ⟨-, ⟨t, ht, hraw⟩, -⟩ := startOfFrameResult s s.cfg.start hst rfl
  exact ⟨t, ht, by rw [hraw], by rw [hraw]⟩

/-- No instruction but `RST` brings a state in AwaitingStart and a state in Receiving together. -/
theorem exec_next_keeps_apart {i : Instr} (hi : i ≠ .rst) {s s' t t' : State} (hst : s.st = .awaitingStart)
    (hst' : s'.st = .receiving) (h : exec i s = .next t) (h' : exec i s' = .next t') : ¬ (t.st = t'.st ∧ t.buf = t'.buf) := by
  obtain ⟨hpause, hbyte⟩ := bufferWriters i s t hi h
  obtain ⟨hpause', hbyte'⟩ := bufferWriters i s' t' hi h'
  rintro ⟨hsame, hsameBuf⟩
  cases hb : i.byte with
  | none =>
    obtain ⟨hkept, -⟩ := hpause hb
    obtain ⟨hkept', -⟩ := hpause' hb
    rw [hkept, hkept', hst, hst'] at hsame
    cases hsame
  | some b =>
    obtain ⟨hempty, -⟩ := hbyte b hb
    obtain ⟨-, happended, -⟩ := hbyte' b hb
    rw [hempty hst, happended hst'] at hsameBuf
    simp at hsameBuf

/-- Settles O21: the effect of a word with `rst` set is written out; any other command keeps the reset state and the state that
START leads to apart. -/
theorem resetCommandResult : Obligations.ResetCommandResult := by
  unfold Obligations.ResetCommandResult
  refine ⟨fun s w hw => ?reset, exec_rst_resetOf, fun cfg i hcommand hi => ?others⟩
  case reset =>
    rw [← Raw.applyWord_of_rst hw]
    exact exec_decodeCommand_completes w s
  case others =>
    obtain ⟨s', -, hst', hcfg'⟩ := exec_start_next (State.resetOf_st cfg)
    obtain ⟨t, ht⟩ := exec_command_completes hcommand (State.resetOf cfg)
    obtain ⟨t', ht'⟩ := exec_command_completes hcommand s'
    refine ⟨State.resetOf cfg, s', t, t', State.resetOf_cfg cfg, hcfg', ht, ht', ?_⟩
    rintro ⟨hst, hbuf, -⟩
    exact exec_next_keeps_apart hi (State.resetOf_st cfg) hst' ht ht' ⟨hst, hbuf⟩

end Sys2Proof.Machine

namespace Sys2Proof.Machine

/-! ## RelayLoop (43_relay_environment.md R161 to R167, R170)

An iteration of a running loop is cancelled at its top, or ends on a fatal read, or runs the reference driver's commands and hands
on what their take returned (`Iteration.cases`). `Relay.record` says what handing on writes; `Relay.dispatch_eq` ties it to the
model. -/

/-- The packet that a step's take returned, with the sink's answer to it (R164). -/
def State.delivery (t : State) (answer : PublishResult) : List (Packet × PublishResult) :=
  t.out.taken.toList.map (fun p => (p, answer))

/-- The loop once the packets `ds` are handed on with these answers: the decoder has a copy of each (R163), and each is published or
failed (R162). -/
def Relay.record (ds : List (Packet × PublishResult)) (r : Relay) : Relay :=
  { r with
    published := r.published ++ answered .ok ds
    failed := r.failed ++ answered .error ds
    diagnosed := r.diagnosed ++ ds.map Prod.fst }

@[simp] theorem Relay.record_published (ds : List (Packet × PublishResult)) (r : Relay) :
    (r.record ds).published = r.published ++ answered .ok ds := rfl
@[simp] theorem Relay.record_failed (ds : List (Packet × PublishResult)) (r : Relay) :
    (r.record ds).failed = r.failed ++ answered .error ds := rfl
@[simp] theorem Relay.record_diagnosed (ds : List (Packet × PublishResult)) (r : Relay) :
    (r.record ds).diagnosed = r.diagnosed ++ ds.map Prod.fst := rfl
@[simp] theorem Relay.record_status (ds : List (Packet × PublishResult)) (r : Relay) : (r.record ds).status = r.status := rfl

@[simp] theorem answered_nil (answer : PublishResult) : answered answer [] = [] := rfl

@[simp] theorem answered_append (answer : PublishResult) (ds es : List (Packet × PublishResult)) :
    answered answer (ds ++ es) = answered answer ds ++ answered answer es := by
  simp [answered]

/-- The sink answers `ok` or `error` to each packet (R162). -/
theorem answered_ok_append_error_perm (ds : List (Packet × PublishResult)) :
    (answered .ok ds ++ answered .error ds).Perm (ds.map Prod.fst) := by
  have herror : (fun d : Packet × PublishResult => d.2 == .error) = fun d => !(d.2 == .ok) := by
    funext d
    cases d.2 <;> rfl
  rw [answered, answered, herror, ← List.map_append]
  exact (List.filter_append_perm _ ds).map Prod.fst

theorem length_answered_le (answer : PublishResult) (ds : List (Packet × PublishResult)) :
    (answered answer ds).length ≤ ds.length := by
  rw [answered, List.length_map]
  exact List.length_filter_le _ ds

/-- A take returns at most one packet. -/
theorem State.length_delivery_le (t : State) (answer : PublishResult) : (t.delivery answer).length ≤ 1 := by
  rw [State.delivery, List.length_map]
  exact Option.length_toList_le

theorem State.delivery_packets (t : State) (answer : PublishResult) :
    (t.delivery answer).map Prod.fst = t.out.taken.toList := by
  cases h : t.out.taken <;> simp [State.delivery, h]

theorem Relay.record_nil (r : Relay) : r.record [] = r := by simp [Relay.record]

theorem Relay.record_record (ds es : List (Packet × PublishResult)) (r : Relay) :
    (r.record ds).record es = r.record (ds ++ es) := by
  simp [Relay.record]

/-- What dispatch does: it records the delivery, and under the aborting policy a failed one ends the loop (R162 to R165). -/
theorem Relay.dispatch_eq (policy : PublishPolicy) (answer : PublishResult) (r : Relay) :
    r.dispatch policy answer =
      if policy = .aborting ∧ answered .error (r.block.delivery answer) ≠ [] then
        (r.record (r.block.delivery answer)).exit .sinkFailed
      else r.record (r.block.delivery answer) := by
  cases h : r.block.out.taken with
  | none => simp [Relay.dispatch, State.delivery, h, Relay.record_nil]
  | some p =>
    cases answer with
    | ok => simp [Relay.dispatch, State.delivery, h, Relay.record, answered]
    | error => cases policy <;> simp [Relay.dispatch, State.delivery, h, Relay.record, answered]

theorem Relay.dispatch_continuing (answer : PublishResult) (r : Relay) :
    r.dispatch .continuing answer = r.record (r.block.delivery answer) := by
  simp [Relay.dispatch_eq]

/-! ### One iteration, and a run of them -/

/-- The three ways an iteration can go (R164 to R166). -/
theorem Iteration.cases (it : Iteration) :
    it.cancel = true ∨ (it.cancel = false ∧ it.read = .fatal) ∨ ∃ read, it = Iteration.undisturbed read it.publish := by
  obtain ⟨cancel, read, publish⟩ := it
  cases cancel with
  | true => exact .inl rfl
  | false =>
    cases read with
    | fatal => exact .inr (.inl ⟨rfl, rfl⟩)
    | timeout => exact .inr (.inr ⟨none, rfl⟩)
    | byte b => exact .inr (.inr ⟨some b, rfl⟩)

theorem Relay.iterate_of_cancel {r : Relay} (hr : r.status = .running) {it : Iteration} (h : it.cancel = true)
    (policy : PublishPolicy) : r.iterate policy it = .next (r.exit .cancelled) := by
  simp [Relay.iterate, hr, h]

theorem Relay.iterate_of_fatal {r : Relay} (hr : r.status = .running) {it : Iteration} (hcancel : it.cancel = false)
    (h : it.read = .fatal) (policy : PublishPolicy) : r.iterate policy it = .next (r.exit .sourceFailed) := by
  simp [Relay.iterate, hr, hcancel, h]

/-- The commands of one iteration complete, and its last one, the take, is the one that can return a packet (R164, R167). -/
theorem iterationCommands_complete (read : Option Byte) (s : State) :
    ∃ t, runCommands (iterationCommands read) s = .next t ∧
      takenPackets (trace (iterationCommands read) s) = t.out.taken.toList := by
  cases read with
  | none =>
    obtain ⟨t, ht, -⟩ := exec_t_completes s
    refine ⟨t, runCommands_cons ht [], ?_⟩
    rw [iterationCommands, scriptIdle, trace_cons ht, takenPackets_cons]
    exact List.append_nil _
  | some b =>
    obtain ⟨u, hu, huraw⟩ := exec_p_completes s b
    obtain ⟨t, ht, -⟩ := exec_t_completes u
    have htaken : u.out.taken = none := by rw [huraw, Raw.process_taken]; rfl
    refine ⟨t, (runCommands_cons hu _).trans (runCommands_cons ht []), ?_⟩
    rw [iterationCommands, scriptRelay, trace_cons hu, trace_cons ht, takenPackets_cons, takenPackets_cons, htaken]
    exact List.append_nil _

/-- An undisturbed iteration runs the driver's commands on the block and dispatches what they leave (R164, R167). -/
theorem Relay.iterate_undisturbed {r : Relay} (hr : r.status = .running) {read : Option Byte} {t : State}
    (ht : runCommands (iterationCommands read) r.block = .next t) (policy : PublishPolicy) (answer : PublishResult) :
    r.iterate policy (Iteration.undisturbed read answer) = .next (Relay.dispatch policy answer { r with block := t }) := by
  cases read with
  | none =>
    obtain ⟨u, hu, hdone⟩ := runCommands_cons_eq_next ht
    cases hdone
    simp [Relay.iterate, hr, Iteration.undisturbed, Relay.drain, hu]
  | some b =>
    obtain ⟨u, hu, htake⟩ := runCommands_cons_eq_next ht
    obtain ⟨v, hv, hdone⟩ := runCommands_cons_eq_next htake
    cases hdone
    simp [Relay.iterate, hr, Iteration.undisturbed, Relay.drain, hu, hv]

theorem Relay.run_cons {policy : PublishPolicy} {it : Iteration} {r r' : Relay} (h : r.iterate policy it = .next r')
    (rest : List Iteration) : r.run policy (it :: rest) = r'.run policy rest := by
  rw [Relay.run, h]

/-- A loop that has ended ignores the iterations listed after. -/
theorem Relay.run_of_ended {r : Relay} (h : r.status ≠ .running) (policy : PublishPolicy) (its : List Iteration) :
    r.run policy its = .next r := by
  induction its with
  | nil => rfl
  | cons it its ih => rw [Relay.run_cons (Relay.iterate_of_ended h policy it), ih]

/-- Settles O51: the iteration leaves by `exit`, and the loop that has ended stays as it is. -/
theorem relayLoopStopsBetweenIterations : Obligations.RelayLoopStopsBetweenIterations := by
  unfold Obligations.RelayLoopStopsBetweenIterations
  intro policy it rest r hr
  refine ⟨fun hcancel => ?cancelled, fun hcancel hfatal => ?fatal⟩
  case cancelled =>
    rw [Relay.run_cons (Relay.iterate_of_cancel hr hcancel policy), Relay.run_of_ended (by simp)]
    rfl
  case fatal =>
    rw [Relay.run_cons (Relay.iterate_of_fatal hr hcancel hfatal policy), Relay.run_of_ended (by simp)]
    rfl

/-! ### What every run keeps (R162, R163, R165, R170) -/

/-- The connections are held while the loop runs and released once it has ended; the packets copied to the decoder are the published
and the failed ones; and a failed one ends the loop exactly under the aborting policy, at the first. -/
structure Relay.Orderly (policy : PublishPolicy) (r : Relay) : Prop where
  connections : r.status = .running ∧ r.transport = .held ∧ r.bus = .held ∨
    r.status ≠ .running ∧ r.transport = .released ∧ r.bus = .released
  accounts : (r.published ++ r.failed).Perm r.diagnosed
  sinkFailed_iff : r.status = .sinkFailed ↔ policy = .aborting ∧ r.failed ≠ []
  failed_length : policy = .aborting → r.failed.length ≤ 1

/-- A running loop under the aborting policy has met no sink error yet. -/
theorem Relay.Orderly.failed_eq_nil {policy : PublishPolicy} {r : Relay} (h : r.Orderly policy) (hr : r.status = .running)
    (hpolicy : policy = .aborting) : r.failed = [] := by
  by_contra hfailed
  have hended := h.sinkFailed_iff.mpr ⟨hpolicy, hfailed⟩
  rw [hr] at hended
  cases hended

/-- Leaving the loop for another reason than the sink. -/
theorem Relay.Orderly.exit {policy : PublishPolicy} {r : Relay} (h : r.Orderly policy) (hr : r.status = .running)
    {why : LoopStatus} (hended : why ≠ .running) (hsink : why ≠ .sinkFailed) : (r.exit why).Orderly policy where
  connections := .inr ⟨hended, rfl, rfl⟩
  accounts := h.accounts
  sinkFailed_iff := iff_of_false hsink fun ⟨hpolicy, hfailed⟩ => hfailed (h.failed_eq_nil hr hpolicy)
  failed_length := h.failed_length

/-- Recording deliveries keeps the account. -/
theorem Relay.record_accounts {r : Relay} (h : (r.published ++ r.failed).Perm r.diagnosed)
    (ds : List (Packet × PublishResult)) :
    ((r.record ds).published ++ (r.record ds).failed).Perm (r.record ds).diagnosed := by
  have hswap : (r.published ++ answered .ok ds ++ (r.failed ++ answered .error ds)).Perm
      (r.published ++ r.failed ++ (answered .ok ds ++ answered .error ds)) := by
    simp only [List.append_assoc]
    exact (List.perm_append_comm_assoc _ _ _).append_left _
  exact hswap.trans (h.append (answered_ok_append_error_perm ds))

/-- Dispatching the one packet of a take, if there is one. -/
theorem Relay.Orderly.dispatch {policy : PublishPolicy} {r : Relay} (h : r.Orderly policy) (hr : r.status = .running)
    (answer : PublishResult) : (r.dispatch policy answer).Orderly policy := by
  have haccounts := Relay.record_accounts h.accounts (r.block.delivery answer)
  rw [Relay.dispatch_eq]
  split
  case isTrue hfail =>
    obtain ⟨hpolicy, hfailed⟩ := hfail
    have hone := (length_answered_le .error _).trans (r.block.length_delivery_le answer)
    exact {
      connections := .inr ⟨by simp, rfl, rfl⟩
      accounts := haccounts
      sinkFailed_iff := iff_of_true rfl ⟨hpolicy, by simp [hfailed]⟩
      failed_length := fun _ => by simpa [h.failed_eq_nil hr hpolicy] using hone }
  case isFalse hgo =>
    have hnone : policy = .aborting → (r.record (r.block.delivery answer)).failed = [] := fun hpolicy => by
      simpa [hpolicy, h.failed_eq_nil hr hpolicy] using hgo
    exact {
      connections := h.connections
      accounts := haccounts
      sinkFailed_iff := iff_of_false (by simp [hr]) fun ⟨hpolicy, hfailed⟩ => hfailed (hnone hpolicy)
      failed_length := fun hpolicy => (congrArg List.length (hnone hpolicy)).trans_le (Nat.zero_le 1) }

/-- One iteration, whatever the environment answers in it. -/
theorem Relay.Orderly.iterate {policy : PublishPolicy} {r : Relay} (h : r.Orderly policy) (hr : r.status = .running)
    (it : Iteration) : ∃ r', r.iterate policy it = .next r' ∧ r'.Orderly policy := by
  obtain hcancel | ⟨hcancel, hfatal⟩ | ⟨read, hit⟩ := it.cases
  · exact ⟨_, Relay.iterate_of_cancel hr hcancel policy, h.exit hr (by simp) (by simp)⟩
  · exact ⟨_, Relay.iterate_of_fatal hr hcancel hfatal policy, h.exit hr (by simp) (by simp)⟩
  · obtain ⟨t, ht, -⟩ := iterationCommands_complete read r.block
    have hblock : Relay.Orderly policy { r with block := t } :=
      ⟨h.connections, h.accounts, h.sinkFailed_iff, h.failed_length⟩
    rw [hit]
    exact ⟨_, Relay.iterate_undisturbed hr ht policy it.publish, hblock.dispatch hr _⟩

theorem Relay.Orderly.run {policy : PublishPolicy} {r : Relay} (h : r.Orderly policy) (its : List Iteration) :
    ∃ r', r.run policy its = .next r' ∧ r'.Orderly policy := by
  induction its generalizing r with
  | nil => exact ⟨r, rfl, h⟩
  | cons it its ih =>
    by_cases hr : r.status = .running
    · obtain ⟨u, hu, hkept⟩ := h.iterate hr it
      rw [Relay.run_cons hu]
      exact ih hkept
    · exact ⟨r, Relay.run_of_ended hr policy _, h⟩

/-! ### A whole run -/

/-- The loop as a run starts it around the block `s`: both connections open, nothing handed on (R167, R213). -/
def Relay.opened (s : State) : Relay :=
  { block := s, published := [], failed := [], diagnosed := [], transport := .held, bus := .held, status := .running }

theorem Relay.opened_orderly (policy : PublishPolicy) (s : State) : (Relay.opened s).Orderly policy where
  connections := .inl ⟨rfl, rfl, rfl⟩
  accounts := .nil
  sinkFailed_iff := by simp [Relay.opened]
  failed_length := fun _ => Nat.zero_le 1

/-- A session is its `RST`, then its iterations from the opened loop. -/
theorem Relay.session_eq_run {s s0 : State} (h : exec .rst s = .next s0) (policy : PublishPolicy) (its : List Iteration) :
    Relay.session policy its s = (Relay.opened s0).run policy its := by
  rw [Relay.session, Relay.start, h]
  rfl

/-- Settles O52: the opened loop is orderly, and every iteration keeps it so. -/
theorem relayLoopReleasesOnEveryExit : Obligations.RelayLoopReleasesOnEveryExit := by
  unfold Obligations.RelayLoopReleasesOnEveryExit
  intro policy its s
  obtain ⟨s0, hs0⟩ := exec_command_completes (i := .rst) rfl s
  obtain ⟨r, hrun, horderly⟩ := (Relay.opened_orderly policy s0).run its
  exact ⟨r, (Relay.session_eq_run hs0 policy its).trans hrun, horderly.connections, horderly.accounts,
    horderly.sinkFailed_iff, horderly.failed_length⟩

/-! ### The loop is the reference driver (R164, R167, R168) -/

theorem handedOn_cons {read : Option Byte} {s t : State} (ht : runCommands (iterationCommands read) s = .next t)
    (answer : PublishResult) (its : List (Option Byte × PublishResult)) :
    handedOn ((read, answer) :: its) s = t.delivery answer ++ handedOn its t := by
  simp [handedOn, ht, State.delivery]

/-- The packets handed on are those the takes of the driver's commands returned. -/
theorem handedOn_packets (its : List (Option Byte × PublishResult)) (s : State) :
    (handedOn its s).map Prod.fst = takenPackets (trace (driverIterations (its.map Prod.fst)) s) := by
  induction its generalizing s with
  | nil => rfl
  | cons it its ih =>
    obtain ⟨read, answer⟩ := it
    obtain ⟨t, ht, htaken⟩ := iterationCommands_complete read s
    rw [handedOn_cons ht, List.map_append, State.delivery_packets, ih, ← htaken, List.map_cons, driverIterations_cons,
      trace_append ht]
    exact List.filterMap_append.symm

/-- Undisturbed iterations under the continuing policy run the driver's commands on the block and record what is handed on. -/
theorem Relay.run_undisturbed (its : List (Option Byte × PublishResult)) {r : Relay} (hr : r.status = .running) :
    ∃ t, runCommands (driverIterations (its.map Prod.fst)) r.block = .next t ∧
      r.run .continuing (its.map (fun it => Iteration.undisturbed it.1 it.2)) =
        .next (Relay.record (handedOn its r.block) { r with block := t }) := by
  induction its generalizing r with
  | nil => exact ⟨r.block, rfl, congrArg Host.Outcome.next (Relay.record_nil r).symm⟩
  | cons it its ih =>
    obtain ⟨read, answer⟩ := it
    obtain ⟨u, hu, -⟩ := iterationCommands_complete read r.block
    have hstep := Relay.iterate_undisturbed hr hu .continuing answer
    rw [Relay.dispatch_continuing] at hstep
    obtain ⟨t, ht, hrun⟩ := ih (r := Relay.record (u.delivery answer) { r with block := u }) hr
    refine ⟨t, (runCommands_append hu).trans ht, ?_⟩
    rw [List.map_cons, Relay.run_cons hstep, hrun, handedOn_cons hu, ← Relay.record_record]
    rfl

/-- Settles O50: the iterations from the opened loop record what the driver's takes return, and the driver loses nothing. -/
theorem relayLoopIsTheReferenceDriver : Obligations.RelayLoopIsTheReferenceDriver := by
  unfold Obligations.RelayLoopIsTheReferenceDriver
  intro its s
  obtain ⟨s0, hs0⟩ := exec_command_completes (i := .rst) rfl s
  obtain ⟨t, ht, hrun⟩ := Relay.run_undisturbed its (r := Relay.opened s0) rfl
  obtain ⟨-, -, -, -, hlossless⟩ := referenceDriverLosesNothing (its.map Prod.fst) s _ (.inl rfl)
  have hquiet : s0.out.taken = none := by rw [exec_next_rst hs0]; rfl
  have hpackets : (handedOn its s0).map Prod.fst = takenPackets (trace (driverCommands (its.map Prod.fst)) s) := by
    rw [handedOn_packets, driverCommands, trace_cons hs0, takenPackets_cons, hquiet]
    rfl
  exact ⟨s0, _, hs0, (Relay.session_eq_run hs0 _ _).trans hrun, rfl, (runCommands_cons hs0 _).trans ht,
    hpackets.trans hlossless, rfl, rfl, rfl⟩

end Sys2Proof.Machine

namespace Sys2Proof.Machine

/-! ## The ports at reset (70_reset_and_hazards.md R210; 10_state.md R23, R25, R29, R37)

Each of these ports shows one part of the contents, and so has one lemma for the value that part has at reset. -/

theorem Raw.stPort_of_awaitingStart {s : Raw} (h : s.st = .awaitingStart) : s.stPort = 0b00#2 := congrArg SeqState.code h

/-- An empty buffer shows length 0 at every width LW. -/
theorem Raw.lenPort_of_buf_nil {s : Raw} (h : s.buf = []) : s.lenPort = 0 :=
  congrArg (fun buf => BitVec.ofNat (lenWidth s.cfg) (List.length buf)) h

theorem Raw.pktValid_of_slot_none {s : Raw} (h : s.slot = none) : s.pktValid = false := congrArg Option.isSome h

/-- A quiet record shows no event (R83, R84). -/
theorem Raw.evPort_of_quiet {s : Raw} (h : s.out = Out.quiet) : s.evPort = 0b00000#5 := congrArg Out.ev h

/-- Settles O22: the reset triple, and what each port shows of it. -/
theorem resetStateValues : Obligations.ResetStateValues := by
  unfold Obligations.ResetStateValues
  intro cfg
  have hst := State.resetOf_st cfg
  have hbuf := State.resetOf_buf cfg
  have hslot := State.resetOf_slot cfg
  have hout := State.resetOf_out cfg
  exact ⟨hst, hbuf, hslot, Raw.stPort_of_awaitingStart hst, Raw.lenPort_of_buf_nil hbuf, Raw.pktValid_of_slot_none hslot,
    Raw.evPort_of_quiet hout, State.resetOf_cfg cfg⟩

end Sys2Proof.Machine
